-- ==== Sys2Proof/Word.lean ====
section
/-! DEFINITION. The bit-vector types of the machine: bytes, 16-bit words and the fields of an opcode
(spec/00_scope.md R8, R9). Every value is unsigned; nothing is ever sign-extended. -/

namespace Sys2Proof

/-- An 8-bit register or memory byte. -/
abbrev Byte := BitVec 8

/-- A 16-bit opcode, address or index register. -/
abbrev Word := BitVec 16

/-- A 4-bit field of an opcode. -/
abbrev Nibble := BitVec 4

/-- A register index, 0 to 15: every value of the 4-bit field is legal (spec/10_state.md R21). -/
abbrev Reg := BitVec 4

/-- The 12-bit address `addr` (spec/00_scope.md R11, spec/30_encoding.md R70). -/
abbrev Addr := BitVec 12

end Sys2Proof
end

