-- ==== Sys2Proof/Config.lean ====
section
/-! DEFINITION. The implementation parameters of spec/00_scope.md R7. The fixed ones are numbers; the OPEN ones are
constants without a body, so that a claim holds for every value of them. -/

namespace Sys2Proof

/-- The two masks the spec allows for SkipEqReg and SkipNeReg: `fine` is 0xF00F, `coarse` is 0xF000 (R7, D3). -/
inductive Mask59 where
  | fine
  | coarse
  deriving DecidableEq, Repr, Inhabited

/-- The mask as a word. -/
def Mask59.word : Mask59 → Word
  | .fine => 0xF00F
  | .coarse => 0xF000

/-- The two orders of reads and writes when VF is an operand of an instruction that writes VF as a flag
(spec/43_alu.md R131, spec/40_display.md R102). -/
inductive AliasOrder where
  | sequential
  | snapshot
  deriving DecidableEq, Repr, Inhabited

namespace Config

/-- OPEN parameter `MASK_5_9` (R7). DESIGN CHOICE of form: an opaque constant. Safe (log entry 1). -/
opaque mask59 : Mask59

/-- OPEN parameter `ALIAS_ORDER` (R7). DESIGN CHOICE of form: an opaque constant. Safe (log entry 2). -/
opaque aliasOrder : AliasOrder

/-- `RandomByte`: the byte of the n-th draw, a free 8-bit input for each execution of Random (R7, R143).
DESIGN CHOICE of form: an opaque function of a draw counter. Safe (log entry 3). -/
opaque randomByte : Nat → Byte

/-- `MEM_SIZE`. -/
def memSize : Nat := 4096

/-- `STACK_DEPTH`. -/
def stackDepth : Nat := 16

/-- `SP_EMPTY`. -/
def spEmpty : Byte := 0xFF

/-- `PROGRAM_START`. -/
def programStart : Word := 0x200

/-- `FONT_GLYPH_BYTES`; glyph 0 stands at `FONT_BASE` = 0. -/
def fontGlyphBytes : Nat := 5

/-- `SCREEN_W`. -/
def screenW : Nat := 64

/-- `SCREEN_H`. -/
def screenH : Nat := 32

/-- `NONE_KEY`. -/
def noneKey : Byte := 255

end Config

end Sys2Proof
end

