-- ==== Sys2Proof/Syntax.lean ====
section
/-! DEFINITION. The instructions: one constructor for each of the 34 operation kinds of spec/30_encoding.md R68, in the
order of that table. An operand named `_y` or `_n` holds bits of the opcode that the kind ignores (R71 and, under
MASK_5_9 = 0xF000, R68): no meaning reads it; it is kept so that an instruction determines its opcode (log entry 8). -/

namespace Sys2Proof

/-- One constructor per row of the catalog. `x` and `y` are register indices, `kk` an 8-bit immediate, `n` a sprite
height, `addr` a 12-bit address (R11). -/
inductive Instr where
  | clearScreen
  | ret
  | jump (addr : Addr)
  | call (addr : Addr)
  | skipEqByte (x : Reg) (kk : Byte)
  | skipNeByte (x : Reg) (kk : Byte)
  | skipEqReg (x y : Reg) (_n : Nibble)
  | loadByte (x : Reg) (kk : Byte)
  | addByte (x : Reg) (kk : Byte)
  | loadReg (x y : Reg)
  | orReg (x y : Reg)
  | andReg (x y : Reg)
  | xorReg (x y : Reg)
  | addReg (x y : Reg)
  | subReg (x y : Reg)
  | shiftRight (x : Reg) (_y : Nibble)
  | subnReg (x y : Reg)
  | shiftLeft (x : Reg) (_y : Nibble)
  | skipNeReg (x y : Reg) (_n : Nibble)
  | loadIndex (addr : Addr)
  | jumpPlusV0 (addr : Addr)
  | random (x : Reg) (kk : Byte)
  | skipKeyPressed (x : Reg)
  | skipKeyNotPressed (x : Reg)
  | drawSprite (x y : Reg) (n : Nibble)
  | loadVxDelay (x : Reg)
  | loadVxKey (x : Reg)
  | loadDelayVx (x : Reg)
  | loadSoundVx (x : Reg)
  | addIndexVx (x : Reg)
  | loadFontVx (x : Reg)
  | storeBCD (x : Reg)
  | storeRegisters (x : Reg)
  | loadRegisters (x : Reg)
  deriving DecidableEq, Repr

/-- The 4-bit value as an argument byte. -/
def argOfNibble (b : Nibble) : Byte := b.setWidth 8

/-- The two argument bytes of an address: bits 11:8, then bits 7:0 (spec/30_encoding.md R70). -/
def argsOfAddr (a : Addr) : List Byte := [argOfNibble (a.extractLsb' 8 4), a.extractLsb' 0 8]

/-- The decoded argument list of an instruction, in catalog order (spec/30_encoding.md R69). -/
def Instr.args : Instr → List Byte
  | .clearScreen => []
  | .ret => []
  | .jump a => argsOfAddr a
  | .call a => argsOfAddr a
  | .skipEqByte x kk => [argOfNibble x, kk]
  | .skipNeByte x kk => [argOfNibble x, kk]
  | .skipEqReg x y _ => [argOfNibble x, argOfNibble y]
  | .loadByte x kk => [argOfNibble x, kk]
  | .addByte x kk => [argOfNibble x, kk]
  | .loadReg x y => [argOfNibble x, argOfNibble y]
  | .orReg x y => [argOfNibble x, argOfNibble y]
  | .andReg x y => [argOfNibble x, argOfNibble y]
  | .xorReg x y => [argOfNibble x, argOfNibble y]
  | .addReg x y => [argOfNibble x, argOfNibble y]
  | .subReg x y => [argOfNibble x, argOfNibble y]
  | .shiftRight x _ => [argOfNibble x]
  | .subnReg x y => [argOfNibble x, argOfNibble y]
  | .shiftLeft x _ => [argOfNibble x]
  | .skipNeReg x y _ => [argOfNibble x, argOfNibble y]
  | .loadIndex a => argsOfAddr a
  | .jumpPlusV0 a => argsOfAddr a
  | .random x kk => [argOfNibble x, kk]
  | .skipKeyPressed x => [argOfNibble x]
  | .skipKeyNotPressed x => [argOfNibble x]
  | .drawSprite x y n => [argOfNibble x, argOfNibble y, argOfNibble n]
  | .loadVxDelay x => [argOfNibble x]
  | .loadVxKey x => [argOfNibble x]
  | .loadDelayVx x => [argOfNibble x]
  | .loadSoundVx x => [argOfNibble x]
  | .addIndexVx x => [argOfNibble x]
  | .loadFontVx x => [argOfNibble x]
  | .storeBCD x => [argOfNibble x]
  | .storeRegisters x => [argOfNibble x]
  | .loadRegisters x => [argOfNibble x]

end Sys2Proof
end

