-- ==== Sys2Proof/WellFormed.lean ====
section
/-! DEFINITION. Which instructions some opcode encodes. The operand types already hold every register index, immediate,
sprite height and address in range (spec/10_state.md R21, spec/30_encoding.md R70), so the one check left is the low
nibble of families 0x5 and 0x9: it is 0 unless MASK_5_9 is 0xF000 (spec/30_encoding.md R68, R72). -/

namespace Sys2Proof

/-- The check for a given value of `MASK_5_9`. -/
def Instr.wellFormedFor (m : Mask59) : Instr → Bool
  | .clearScreen => true
  | .ret => true
  | .jump _ => true
  | .call _ => true
  | .skipEqByte _ _ => true
  | .skipNeByte _ _ => true
  | .skipEqReg _ _ n => n == 0 || m == .coarse
  | .loadByte _ _ => true
  | .addByte _ _ => true
  | .loadReg _ _ => true
  | .orReg _ _ => true
  | .andReg _ _ => true
  | .xorReg _ _ => true
  | .addReg _ _ => true
  | .subReg _ _ => true
  | .shiftRight _ _ => true
  | .subnReg _ _ => true
  | .shiftLeft _ _ => true
  | .skipNeReg _ _ n => n == 0 || m == .coarse
  | .loadIndex _ => true
  | .jumpPlusV0 _ => true
  | .random _ _ => true
  | .skipKeyPressed _ => true
  | .skipKeyNotPressed _ => true
  | .drawSprite _ _ _ => true
  | .loadVxDelay _ => true
  | .loadVxKey _ => true
  | .loadDelayVx _ => true
  | .loadSoundVx _ => true
  | .addIndexVx _ => true
  | .loadFontVx _ => true
  | .storeBCD _ => true
  | .storeRegisters _ => true
  | .loadRegisters _ => true

/-- The check for this machine, whatever its `MASK_5_9`. -/
abbrev Instr.WellFormed (i : Instr) : Prop := i.wellFormedFor Config.mask59 = true

end Sys2Proof
end

