-- ==== Sys2Proof/Decode.lean ====
section
/-! DEFINITION. The catalog of spec/30_encoding.md R68 and R69, the decoder that searches it (R62, R66) and the encoder.
Every pattern is the spec's own, which marks it as general knowledge (93_implementation_defined.md G1; log entry 7). -/

namespace Sys2Proof

/-! ### Fields (R61) -/

/-- Field `x`, bits 11:8. -/
def fieldX (op : Word) : Reg := op.extractLsb' 8 4

/-- Field `y`, bits 7:4. -/
def fieldY (op : Word) : Reg := op.extractLsb' 4 4

/-- Field `n`, bits 3:0. -/
def fieldN (op : Word) : Nibble := op.extractLsb' 0 4

/-- Field `kk`, bits 7:0. -/
def fieldKK (op : Word) : Byte := op.extractLsb' 0 8

/-- Field `nnn`, bits 11:0, which is `x << 8 | kk` (R61, R70). -/
def fieldAddr (op : Word) : Addr := op.extractLsb' 0 12

/-! ### The catalog -/

/-- What an argument stands for (R63). Documentation only: no rule reads it. -/
inductive ArgRole where
  | register
  | immediate
  | addressNibble
  | addressByte
  | height
  deriving DecidableEq, Repr

/-- An argument rule: bitmask, right shift, interpreted kind (R63). -/
structure ArgRule where
  mask : Word
  shift : Nat
  role : ArgRole
  deriving DecidableEq, Repr

/-- The argument byte a rule extracts: `((op & mask) >> shift) mod 2^8` (R63). -/
def ArgRule.apply (r : ArgRule) (op : Word) : Byte := ((op &&& r.mask) >>> r.shift).setWidth 8

/-- The rule lists of R69. -/
def rulesNone : List ArgRule := []
def rulesAddr : List ArgRule := [⟨0x0F00, 8, .addressNibble⟩, ⟨0x00FF, 0, .addressByte⟩]
def rulesXKK : List ArgRule := [⟨0x0F00, 8, .register⟩, ⟨0x00FF, 0, .immediate⟩]
def rulesXY : List ArgRule := [⟨0x0F00, 8, .register⟩, ⟨0x00F0, 4, .register⟩]
def rulesX : List ArgRule := [⟨0x0F00, 8, .register⟩]
def rulesXYN : List ArgRule := [⟨0x0F00, 8, .register⟩, ⟨0x00F0, 4, .register⟩, ⟨0x000F, 0, .height⟩]

/-- A catalog entry (R62). `open59` marks the two entries whose mask is the parameter `MASK_5_9`; their `mask` field
holds 0xF00F, as opcode_table.json lists it. `read` builds the instruction from the opcode's fields. -/
structure Entry where
  kind : String
  pattern : Word
  mask : Word
  open59 : Bool
  rules : List ArgRule
  read : Word → Instr

/-- The entry's mask under a value of `MASK_5_9` (R68). -/
def Entry.maskFor (m : Mask59) (e : Entry) : Word := if e.open59 then m.word else e.mask

/-- Whether an opcode matches an entry: `(op & mask) == pattern` (R62). Written so that only an opcode whose match
depends on `MASK_5_9` needs its value. -/
def Entry.hits (m : Mask59) (e : Entry) (op : Word) : Bool :=
  (op &&& e.mask == e.pattern) || (e.open59 && (op &&& 0xF000 == e.pattern) && m == .coarse)

/-- Rows 1 to 9 of R68. -/
def catalogA : List Entry := [
  ⟨"ClearScreen", 0x00E0, 0xFFFF, false, rulesNone, fun _ => .clearScreen⟩,
  ⟨"Return", 0x00EE, 0xFFFF, false, rulesNone, fun _ => .ret⟩,
  ⟨"Jump", 0x1000, 0xF000, false, rulesAddr, fun op => .jump (fieldAddr op)⟩,
  ⟨"Call", 0x2000, 0xF000, false, rulesAddr, fun op => .call (fieldAddr op)⟩,
  ⟨"SkipEqByte", 0x3000, 0xF000, false, rulesXKK, fun op => .skipEqByte (fieldX op) (fieldKK op)⟩,
  ⟨"SkipNeByte", 0x4000, 0xF000, false, rulesXKK, fun op => .skipNeByte (fieldX op) (fieldKK op)⟩,
  ⟨"SkipEqReg", 0x5000, 0xF00F, true, rulesXY, fun op => .skipEqReg (fieldX op) (fieldY op) (fieldN op)⟩,
  ⟨"LoadByte", 0x6000, 0xF000, false, rulesXKK, fun op => .loadByte (fieldX op) (fieldKK op)⟩,
  ⟨"AddByte", 0x7000, 0xF000, false, rulesXKK, fun op => .addByte (fieldX op) (fieldKK op)⟩]

/-- Rows 10 to 18 of R68: family 0x8. -/
def catalogB : List Entry := [
  ⟨"LoadReg", 0x8000, 0xF00F, false, rulesXY, fun op => .loadReg (fieldX op) (fieldY op)⟩,
  ⟨"Or", 0x8001, 0xF00F, false, rulesXY, fun op => .orReg (fieldX op) (fieldY op)⟩,
  ⟨"And", 0x8002, 0xF00F, false, rulesXY, fun op => .andReg (fieldX op) (fieldY op)⟩,
  ⟨"Xor", 0x8003, 0xF00F, false, rulesXY, fun op => .xorReg (fieldX op) (fieldY op)⟩,
  ⟨"AddReg", 0x8004, 0xF00F, false, rulesXY, fun op => .addReg (fieldX op) (fieldY op)⟩,
  ⟨"SubReg", 0x8005, 0xF00F, false, rulesXY, fun op => .subReg (fieldX op) (fieldY op)⟩,
  ⟨"ShiftRight", 0x8006, 0xF00F, false, rulesX, fun op => .shiftRight (fieldX op) (fieldY op)⟩,
  ⟨"SubnReg", 0x8007, 0xF00F, false, rulesXY, fun op => .subnReg (fieldX op) (fieldY op)⟩,
  ⟨"ShiftLeft", 0x800E, 0xF00F, false, rulesX, fun op => .shiftLeft (fieldX op) (fieldY op)⟩]

/-- Rows 19 to 25 of R68. -/
def catalogC : List Entry := [
  ⟨"SkipNeReg", 0x9000, 0xF00F, true, rulesXY, fun op => .skipNeReg (fieldX op) (fieldY op) (fieldN op)⟩,
  ⟨"LoadIndex", 0xA000, 0xF000, false, rulesAddr, fun op => .loadIndex (fieldAddr op)⟩,
  ⟨"JumpPlusV0", 0xB000, 0xF000, false, rulesAddr, fun op => .jumpPlusV0 (fieldAddr op)⟩,
  ⟨"Random", 0xC000, 0xF000, false, rulesXKK, fun op => .random (fieldX op) (fieldKK op)⟩,
  ⟨"SkipKeyPressed", 0xE09E, 0xF0FF, false, rulesX, fun op => .skipKeyPressed (fieldX op)⟩,
  ⟨"SkipKeyNotPressed", 0xE0A1, 0xF0FF, false, rulesX, fun op => .skipKeyNotPressed (fieldX op)⟩,
  ⟨"DrawSprite", 0xD000, 0xF000, false, rulesXYN, fun op => .drawSprite (fieldX op) (fieldY op) (fieldN op)⟩]

/-- Rows 26 to 34 of R68: family 0xF. -/
def catalogD : List Entry := [
  ⟨"LoadVxDelay", 0xF007, 0xF0FF, false, rulesX, fun op => .loadVxDelay (fieldX op)⟩,
  ⟨"LoadVxKey", 0xF00A, 0xF0FF, false, rulesX, fun op => .loadVxKey (fieldX op)⟩,
  ⟨"LoadDelayVx", 0xF015, 0xF0FF, false, rulesX, fun op => .loadDelayVx (fieldX op)⟩,
  ⟨"LoadSoundVx", 0xF018, 0xF0FF, false, rulesX, fun op => .loadSoundVx (fieldX op)⟩,
  ⟨"AddIndexVx", 0xF01E, 0xF0FF, false, rulesX, fun op => .addIndexVx (fieldX op)⟩,
  ⟨"LoadFontVx", 0xF029, 0xF0FF, false, rulesX, fun op => .loadFontVx (fieldX op)⟩,
  ⟨"StoreBCD", 0xF033, 0xF0FF, false, rulesX, fun op => .storeBCD (fieldX op)⟩,
  ⟨"StoreRegisters", 0xF055, 0xF0FF, false, rulesX, fun op => .storeRegisters (fieldX op)⟩,
  ⟨"LoadRegisters", 0xF065, 0xF0FF, false, rulesX, fun op => .loadRegisters (fieldX op)⟩]

/-- The 34 entries of R68, in its order. -/
def catalog : List Entry := catalogA ++ (catalogB ++ (catalogC ++ catalogD))

/-! ### Decoding -/

/-- R66 for a given value of `MASK_5_9`: the instruction of the entry the opcode matches, none where it matches none. -/
def decodeWordFor (m : Mask59) (op : Word) : Option Instr :=
  (catalog.find? fun e => e.hits m op).map fun e => e.read op

/-- R66 for this machine. -/
def decodeWord (op : Word) : Option Instr := decodeWordFor Config.mask59 op

/-- Why bytes are no instruction. -/
inductive DecodeError where
  /-- Fewer than two bytes are left (R60). -/
  | truncated
  /-- The opcode matches no entry (R67). -/
  | noEntry (op : Word)
  deriving DecidableEq, Repr

/-- The opcode of two bytes, the first being bits 15 to 8 (spec/20_memory.md R42, R43). -/
def wordOfBytes (hi lo : Byte) : Word := hi ++ lo

/-- The two bytes of an opcode as memory holds them, the first at the lower address (spec/20_memory.md R43). -/
def bytesOfWord (op : Word) : Byte × Byte := (op.extractLsb' 8 8, op.extractLsb' 0 8)

/-- Decoding from bytes: the instruction and the bytes after it. -/
def decode : List Byte → Except DecodeError (Instr × List Byte)
  | hi :: lo :: rest =>
    match decodeWord (wordOfBytes hi lo) with
    | some i => .ok (i, rest)
    | none => .error (.noEntry (wordOfBytes hi lo))
  | _ => .error .truncated

/-- The instruction the decoder reads from an instruction whose bits are `w`, numbered as opcode_table.json does. -/
def decodeTableWord (nbits w : Nat) : Option Instr :=
  let (hi, lo) := bytesOfWord (BitVec.ofNat 16 (w % 2 ^ nbits))
  match decode [hi, lo] with
  | .ok (i, _) => some i
  | .error _ => none

/-! ### Encoding (R68) -/

/-- Top nibble and a 12-bit address. -/
def encAddr (top : Nibble) (a : Addr) : Word := top ++ a

/-- Top nibble, register index, byte. -/
def encXKK (top : Nibble) (x : Reg) (kk : Byte) : Word := top ++ (x ++ kk)

/-- Top nibble, two register indices, low nibble. -/
def encXYN (top : Nibble) (x y n : Nibble) : Word := top ++ (x ++ (y ++ n))

/-- The opcode of an instruction. -/
def encode : Instr → Word
  | .clearScreen => 0x00E0
  | .ret => 0x00EE
  | .jump a => encAddr 0x1 a
  | .call a => encAddr 0x2 a
  | .skipEqByte x kk => encXKK 0x3 x kk
  | .skipNeByte x kk => encXKK 0x4 x kk
  | .skipEqReg x y n => encXYN 0x5 x y n
  | .loadByte x kk => encXKK 0x6 x kk
  | .addByte x kk => encXKK 0x7 x kk
  | .loadReg x y => encXYN 0x8 x y 0x0
  | .orReg x y => encXYN 0x8 x y 0x1
  | .andReg x y => encXYN 0x8 x y 0x2
  | .xorReg x y => encXYN 0x8 x y 0x3
  | .addReg x y => encXYN 0x8 x y 0x4
  | .subReg x y => encXYN 0x8 x y 0x5
  | .shiftRight x y => encXYN 0x8 x y 0x6
  | .subnReg x y => encXYN 0x8 x y 0x7
  | .shiftLeft x y => encXYN 0x8 x y 0xE
  | .skipNeReg x y n => encXYN 0x9 x y n
  | .loadIndex a => encAddr 0xA a
  | .jumpPlusV0 a => encAddr 0xB a
  | .random x kk => encXKK 0xC x kk
  | .drawSprite x y n => encXYN 0xD x y n
  | .skipKeyPressed x => encXKK 0xE x 0x9E
  | .skipKeyNotPressed x => encXKK 0xE x 0xA1
  | .loadVxDelay x => encXKK 0xF x 0x07
  | .loadVxKey x => encXKK 0xF x 0x0A
  | .loadDelayVx x => encXKK 0xF x 0x15
  | .loadSoundVx x => encXKK 0xF x 0x18
  | .addIndexVx x => encXKK 0xF x 0x1E
  | .loadFontVx x => encXKK 0xF x 0x29
  | .storeBCD x => encXKK 0xF x 0x33
  | .storeRegisters x => encXKK 0xF x 0x55
  | .loadRegisters x => encXKK 0xF x 0x65

end Sys2Proof
end

