-- ==== Sys2Proof/Machine/State.lean ====
section
/-! DEFINITION. The state of the machine (spec/10_state.md), its reset value (R35, R250), and the reasons a step can have
no next state. -/

namespace Sys2Proof.Machine

/-- Memory: (address, byte) pairs in strictly rising address order, none holding 0, which is what an unlisted address
reads as (spec/10_state.md R20, R35). -/
abbrev Memory := List Host.Cell

/-- The framebuffer `fb[y][x]`, one Boolean per pixel (spec/10_state.md R30). -/
abbrev Screen := Vector (Vector Bool 64) 32

/-- The fault kinds of spec/60_exceptions.md R200. -/
inductive FaultKind where
  | decodeFailure
  | stackUnderflow
  | stackOverflow
  | addressOutOfBounds
  | dataAddressOutOfBounds
  | keyIndexOutOfRange
  | indexOverflow
  deriving DecidableEq, Repr

/-- The run status `halt` (spec/10_state.md R29): the diagnostic holds the kind, the `pc`, and the opcode and the
address or value where they apply (spec/60_exceptions.md R200, R201). -/
inductive Halt where
  | running
  | faulted (kind : FaultKind) (pc : Word) (opcode : Option Word) (addr : Option Nat)
  deriving DecidableEq, Repr

/-- One call or write of the host between or as transactions (spec/00_scope.md R6, spec/70_reset_and_hazards.md R260). -/
inductive HostCall where
  | reset
  | load (image : List Byte)
  | step (keys : BitVec 16)
  | tick
  | setLastKey (key : Byte)
  deriving DecidableEq, Repr

/-- The whole machine. The first nine fields are the core's own state (R20 to R29), the next four the collaborators'
(R30), the last three the model's (log entries 3, 4, 6). -/
structure State where
  /-- `V[0]` to `V[15]` (R21). -/
  v : Vector Byte 16
  /-- Program counter (R23). -/
  pc : Word
  /-- Index register (R24). -/
  i : Word
  /-- Return stack (R25). -/
  stack : Vector Word 16
  /-- Stack pointer; 0xFF is the empty sentinel (R26). -/
  sp : Byte
  /-- Delay timer (R27). -/
  dt : Byte
  /-- Sound timer (R28). -/
  st : Byte
  /-- Memory (R20). -/
  mem : Memory
  /-- Run status (R29). -/
  halt : Halt
  /-- Framebuffer (R30, R221). -/
  fb : Screen
  /-- Whether the audio collaborator sounds (R30, R223). -/
  soundOn : Bool
  /-- Pressed keys, bit `k` for key `k` (R30, R224). -/
  keys : BitVec 16
  /-- Last-key slot; 255 is `NONE_KEY` (R30, R225). -/
  lastKey : Byte
  /-- Whether no `step` or `tick` has happened since the last `reset`: the boot phase of R251. -/
  boot : Bool
  /-- How many random bytes have been drawn (R143). The model's own field. -/
  draws : Nat
  /-- The host calls still to come (R7 `TICK_SCHEDULE`). The model's own field. -/
  pending : List HostCall
  deriving DecidableEq, Repr

/-- Power-on collaborator state, then `reset()`: every value is R35's, but for the model's own fields: `boot` is true
(R251, log entry 6), `draws` is 0 (DESIGN CHOICE, log entry 3), `pending` is empty (DESIGN CHOICE, log entry 4). -/
def State.reset : State where
  v := Vector.replicate 16 0
  pc := Config.programStart
  i := 0
  stack := Vector.replicate 16 0
  sp := Config.spEmpty
  dt := 0
  st := 0
  mem := []
  halt := .running
  fb := Vector.replicate 32 (Vector.replicate 64 false)
  soundOn := false
  keys := 0
  lastKey := Config.noneKey
  boot := true
  draws := 0
  pending := []

/-- Why a step has no next state though nothing was refused. A fault of R200 is not here: it is a next state whose
`halt` holds the diagnostic (R201). -/
inductive Fault where
  /-- Raised by a `step` or `tick` of a halted machine, which has no transition (R77, R202). Safe: the hardware has
  none either. -/
  | halted
  /-- Raised by Return when `sp` is neither a slot index nor the sentinel, which R26 rules out. Safe: the spec gives
  such a state no meaning, and no step reaches one. -/
  | stackPointerOutOfRange
  deriving DecidableEq, Repr

/-- What the model gives no meaning. -/
inductive Refusal where
  /-- Raised by `exec` for an instruction without a meaning. Safe. -/
  | notModelled (mnemonic : String)
  /-- Raised by `load` outside the boot phase or in a halted machine (R251, R202). Safe: the operation has no transition. -/
  | loadOutsideBoot
  /-- Raised by `load` of an image that is not 4096 bytes long (R251). Safe: the operation has no transition. -/
  | imageSize
  /-- Raised by a host write of `last_key` that is neither 0x0 to 0xF nor 255, against the host's duty (R260). Safe:
  a duty the host fails to meet has no move in the model. -/
  | lastKeyValue
  deriving DecidableEq, Repr

/-- The answer of a meaning or of a step. -/
abbrev Result := Host.Outcome State Fault Refusal

end Sys2Proof.Machine
end

