-- ==== Sys2Proof/Machine/Ops.lean ====
section
/-! DEFINITION. The primitives of spec/00_scope.md R10 over the state: memory, registers, the return stack, fetch, the
pc, raising a fault, and the collaborators' calls. -/

namespace Sys2Proof.Machine

/-! ### Memory (spec/20_memory.md) -/

/-- The canonical form from address `lo` on: addresses strictly rising, inside memory, no byte equal to 0. -/
def Memory.wfFrom : Nat → Memory → Bool
  | _, [] => true
  | lo, (a, b) :: rest =>
    decide (lo ≤ a) && decide (a < Config.memSize) && b != 0 && Memory.wfFrom (a + 1) rest

/-- The canonical form. -/
def Memory.wf (m : Memory) : Bool := Memory.wfFrom 0 m

/-- The byte at an address; an unlisted address reads 0 (R44; reset contents, spec/10_state.md R35). -/
def Memory.read : Memory → Nat → Byte
  | [], _ => 0
  | (a, b) :: rest, c => if c = a then b else Memory.read rest c

/-- Put a byte into the list, keeping the canonical form. -/
def Memory.put : Memory → Nat → Byte → Memory
  | [], c, w => if w = 0 then [] else [(c, w)]
  | (a, b) :: rest, c, w =>
    if c < a then (if w = 0 then (a, b) :: rest else (c, w) :: (a, b) :: rest)
    else if c = a then (if w = 0 then rest else (c, w) :: rest)
    else (a, b) :: Memory.put rest c w

/-- `MemWrite` (R45). Every caller has checked the address; there is no byte past 0xFFF to write. -/
def Memory.write (m : Memory) (c : Nat) (w : Byte) : Memory :=
  if c < Config.memSize then m.put c w else m

/-- The memory that holds the bytes of an image from address `a` on (spec/70_reset_and_hazards.md R251). -/
def Memory.ofImage : Nat → List Byte → Memory
  | _, [] => []
  | a, b :: rest => if b = 0 then Memory.ofImage (a + 1) rest else (a, b) :: Memory.ofImage (a + 1) rest

/-- `MemRead(a, 1)`. -/
def State.readMem (s : State) (a : Nat) : Byte := Memory.read s.mem a

/-- `MemWrite(a, 1, w)`. -/
def State.writeMem (s : State) (a : Nat) (w : Byte) : State := { s with mem := Memory.write s.mem a w }

/-! ### Registers (spec/10_state.md) -/

/-- `V[r]`. -/
def State.reg (s : State) (r : Reg) : Byte := s.v[r.toNat]'r.isLt

/-- `V[r] <- w`. -/
def State.setReg (s : State) (r : Reg) (w : Byte) : State := { s with v := s.v.set r.toNat w r.isLt }

/-- VF, the flag register (R22). -/
def vf : Reg := 15

/-- The value an operand register gives once the instruction has written VF: `before` is its value before the
instruction and `t` the state now. Only VF can differ, and there `ALIAS_ORDER` decides (spec/43_alu.md R131,
spec/40_display.md R102). -/
def operandNow (ord : AliasOrder) (r : Reg) (before : Byte) (t : State) : Byte :=
  if r = vf then
    match ord with
    | .snapshot => before
    | .sequential => t.reg r
  else before

/-- `pc <- t`. -/
def State.setPc (s : State) (t : Word) : State := { s with pc := t }

/-- The default advance `pc <- pc + 2` (spec/30_encoding.md R76). -/
def State.advance (s : State) : State := s.setPc (s.pc + 2)

/-- A skip: `pc + 4` when the condition holds, `pc + 2` otherwise (R76). -/
def State.skipIf (s : State) (c : Bool) : State := s.setPc (if c then s.pc + 4 else s.pc + 2)

/-- `i <- t`. -/
def State.setI (s : State) (t : Word) : State := { s with i := t }

/-- `dt <- t`. -/
def State.setDt (s : State) (t : Byte) : State := { s with dt := t }

/-- `st <- t`. -/
def State.setSt (s : State) (t : Byte) : State := { s with st := t }

/-! ### The return stack (spec/10_state.md R25, R26) -/

/-- `sp` after a push, as an exact number: slot 0 from the empty stack (spec/41_control_flow.md R112). -/
def State.nextSlot (s : State) : Nat := if s.sp = Config.spEmpty then 0 else s.sp.toNat + 1

/-- `sp` after a pop (spec/41_control_flow.md R110). -/
def State.spBelow (s : State) : Byte := if s.sp = 0 then Config.spEmpty else s.sp - 1

/-- Push a return address into slot `k`. -/
def State.pushAt (s : State) (k : Nat) (h : k < 16) (t : Word) : State :=
  { s with stack := s.stack.set k t h, sp := BitVec.ofNat 8 k }

/-! ### Faults (spec/60_exceptions.md R200, R201) -/

/-- The cause code of a fault kind (R200). -/
def FaultKind.code : FaultKind → Nat
  | .decodeFailure => 1
  | .stackUnderflow => 2
  | .stackOverflow => 3
  | .addressOutOfBounds => 4
  | .dataAddressOutOfBounds => 5
  | .keyIndexOutOfRange => 6
  | .indexOverflow => 7

/-- `raise F(info)`: the step ends with the diagnostic in `halt` and changes nothing else (R201). -/
def raise (kind : FaultKind) (opcode : Option Word) (addr : Option Nat) (s : State) : Result :=
  .next { s with halt := .faulted kind s.pc opcode addr }

/-! ### Fetch (spec/20_memory.md R42) -/

/-- The opcode at `pc`, none where `pc + 1` is no memory index. -/
def State.fetch (s : State) : Option Word :=
  if s.pc.toNat + 1 < Config.memSize then
    some (wordOfBytes (s.readMem s.pc.toNat) (s.readMem (s.pc.toNat + 1)))
  else none

/-! ### Collaborators (spec/60_exceptions.md R221 to R225) -/

/-- `fb[y][x]`. -/
def State.pixel (s : State) (x : Fin 64) (y : Fin 32) : Bool := s.fb[y.val][x.val]

/-- `fb[y][x] <- b`. -/
def State.setPixel (s : State) (x : Fin 64) (y : Fin 32) (b : Bool) : State :=
  { s with fb := s.fb.set y.val (s.fb[y.val].set x.val b) }

/-- The framebuffer effect of `Plot` (R221). -/
def State.plot (s : State) (x : Fin 64) (y : Fin 32) (b : Bool) : State := s.setPixel x y (s.pixel x y ^^ b)

/-- The answer of `Plot`: a set pixel was cleared (R221). -/
def State.collides (s : State) (x : Fin 64) (y : Fin 32) (b : Bool) : Bool := s.pixel x y && b

/-- `Clear()` (R222). -/
def State.clearScreen (s : State) : State := { s with fb := Vector.replicate 32 (Vector.replicate 64 false) }

/-- `StartSound()` (R223). -/
def State.startSound (s : State) : State := { s with soundOn := true }

/-- `StopSound()` (R223). -/
def State.stopSound (s : State) : State := { s with soundOn := false }

/-- `keys[k]` (R224). -/
def State.keyDown (s : State) (k : Nat) : Bool := s.keys.getLsbD k

/-- `last_key <- NONE_KEY` (R225). -/
def State.consumeKey (s : State) : State := { s with lastKey := Config.noneKey }

end Sys2Proof.Machine
end

