-- ==== Sys2Proof/Machine/Flags.lean ====
section
/-! DEFINITION. Flag computations and the order in which a flag-writing instruction writes VF and its result
(spec/43_alu.md R131, R138 to R142). -/

namespace Sys2Proof.Machine

/-- A Boolean stored into a register (spec/00_scope.md R9). -/
def boolByte (c : Bool) : Byte := if c then 1 else 0

/-- Carry out of bit 7 (R138). -/
def carryFlag (a b : Byte) : Byte := boolByte (decide (255 < a.toNat + b.toNat))

/-- Strictly greater (R139, R141): equal operands give 0. -/
def greaterFlag (a b : Byte) : Byte := boolByte (decide (b.toNat < a.toNat))

/-- The bit a right shift moves out (R140). -/
def lowBitFlag (a : Byte) : Byte := a &&& 1

/-- The bit a left shift moves out (R142). -/
def highBitFlag (a : Byte) : Byte := a >>> 7

/-- Write the flag of `V[x]` and `V[y]` to VF, then the result to `V[x]`. Under `snapshot` the result is formed from the
values before the instruction, under `sequential` from the registers after the flag is written (R131). -/
def writeFlagged (ord : AliasOrder) (x y : Reg) (flag result : Byte → Byte → Byte) (s : State) : State :=
  let t := s.setReg vf (flag (s.reg x) (s.reg y))
  t.setReg x (result (operandNow ord x (s.reg x) t) (operandNow ord y (s.reg y) t))

end Sys2Proof.Machine
end

