-- ==== Sys2Proof/Machine/Alu.lean ====
section
/-! DEFINITION. Register loads, arithmetic and logic (spec/43_alu.md). Byte arithmetic is modulo 2^8 (R130, R144). -/

namespace Sys2Proof.Machine

/-- Write `V[x]` and advance: the shape of the kinds that write no flag. -/
def writeReg (x : Reg) (w : Byte) (s : State) : Result := .next (s.setReg x w).advance

/-- LoadByte `Vx, byte` (R132). -/
def execLoadByte (x : Reg) (kk : Byte) (s : State) : Result := writeReg x kk s

/-- AddByte `Vx, byte` (R133). -/
def execAddByte (x : Reg) (kk : Byte) (s : State) : Result := writeReg x (s.reg x + kk) s

/-- LoadReg `Vx, Vy` (R134). -/
def execLoadReg (x y : Reg) (s : State) : Result := writeReg x (s.reg y) s

/-- Or `Vx, Vy` (R135). -/
def execOr (x y : Reg) (s : State) : Result := writeReg x (s.reg x ||| s.reg y) s

/-- And `Vx, Vy` (R136). -/
def execAnd (x y : Reg) (s : State) : Result := writeReg x (s.reg x &&& s.reg y) s

/-- Xor `Vx, Vy` (R137). -/
def execXor (x y : Reg) (s : State) : Result := writeReg x (s.reg x ^^^ s.reg y) s

/-- AddReg `Vx, Vy` (R138). The sum is formed before any write, so both values of `ALIAS_ORDER` agree. -/
def execAddReg (x y : Reg) (s : State) : Result :=
  .next (writeFlagged .snapshot x y carryFlag (fun a b => a + b) s).advance

/-- SubReg under a given `ALIAS_ORDER` (R139). -/
def subRegWith (ord : AliasOrder) (x y : Reg) (s : State) : Result :=
  .next (writeFlagged ord x y greaterFlag (fun a b => a - b) s).advance

/-- SubReg `Vx, Vy` (R139). -/
def execSubReg (x y : Reg) (s : State) : Result := subRegWith Config.aliasOrder x y s

/-- ShiftRight under a given `ALIAS_ORDER` (R140). -/
def shiftRightWith (ord : AliasOrder) (x : Reg) (s : State) : Result :=
  .next (writeFlagged ord x x (fun a _ => lowBitFlag a) (fun a _ => a >>> 1) s).advance

/-- ShiftRight `Vx` (R140). -/
def execShiftRight (x : Reg) (s : State) : Result := shiftRightWith Config.aliasOrder x s

/-- SubnReg under a given `ALIAS_ORDER` (R141). -/
def subnRegWith (ord : AliasOrder) (x y : Reg) (s : State) : Result :=
  .next (writeFlagged ord x y (fun a b => greaterFlag b a) (fun a b => b - a) s).advance

/-- SubnReg `Vx, Vy` (R141). -/
def execSubnReg (x y : Reg) (s : State) : Result := subnRegWith Config.aliasOrder x y s

/-- ShiftLeft under a given `ALIAS_ORDER` (R142). -/
def shiftLeftWith (ord : AliasOrder) (x : Reg) (s : State) : Result :=
  .next (writeFlagged ord x x (fun a _ => highBitFlag a) (fun a _ => a <<< 1) s).advance

/-- ShiftLeft `Vx` (R142). -/
def execShiftLeft (x : Reg) (s : State) : Result := shiftLeftWith Config.aliasOrder x s

/-- Random with a given draw (R143). -/
def randomWith (r : Byte) (x : Reg) (kk : Byte) (s : State) : Result :=
  writeReg x (r &&& kk) { s with draws := s.draws + 1 }

/-- Random `Vx, byte` (R143): the byte of this draw is free. -/
def execRandom (x : Reg) (kk : Byte) (s : State) : Result := randomWith (Config.randomByte s.draws) x kk s

end Sys2Proof.Machine
end

