-- ==== Sys2Proof/Machine/Operands.lean ====
section
/-! DEFINITION. The operand forms: addresses, spans of memory through `i`, decimal digits, key indices, sprite pixels,
and the register ranges of the transfers. -/

namespace Sys2Proof.Machine

/-- `zext_16(addr)` (spec/30_encoding.md R70). -/
def zextAddr (a : Addr) : Word := a.setWidth 16

/-- `addr + V[0]` at 16 bits (spec/41_control_flow.md R113). -/
def addrPlus (a : Addr) (b : Byte) : Word := zextAddr a + b.setWidth 16

/-- The lowest address past 0xFFF among the `len` bytes from `i` on, none where all are in memory
(spec/44_index_memory.md preamble, spec/40_display.md R101). -/
def badAddress (i len : Nat) : Option Nat :=
  if len ≠ 0 ∧ Config.memSize < i + len then some (max i Config.memSize) else none

/-- Check the `len` bytes from `i` on before anything is written (spec/60_exceptions.md R203), then go on. -/
def withSpan (op : Word) (len : Nat) (s : State) (k : State) : Result :=
  match badAddress s.i.toNat len with
  | some a => raise .dataAddressOutOfBounds (some op) (some a) s
  | none => .next k

/-- The hundreds, tens and ones digits (spec/44_index_memory.md R153). -/
def hundreds (b : Byte) : Byte := BitVec.ofNat 8 (b.toNat / 100)
def tens (b : Byte) : Byte := BitVec.ofNat 8 (b.toNat / 10 % 10)
def ones (b : Byte) : Byte := BitVec.ofNat 8 (b.toNat % 10)

/-- The address of the glyph of a digit, an exact product of at most 1275 (spec/44_index_memory.md R152). -/
def glyphAddress (b : Byte) : Word := BitVec.ofNat 16 (b.toNat * Config.fontGlyphBytes)

/-- Skip on a key's state; an index above 15 faults (spec/42_skips.md R124, R125). `want` is the state that skips. -/
def skipOnKey (op : Word) (x : Reg) (want : Bool) (s : State) : Result :=
  if (s.reg x).toNat < 16 then .next (s.skipIf (s.keyDown (s.reg x).toNat == want))
  else raise .keyIndexOutOfRange (some op) (some (s.reg x).toNat) s

/-- Store `V[0]` to `V[n-1]` from `i` on, in increasing order (spec/44_index_memory.md R154). -/
def storeRange : Nat → State → State
  | 0, s => s
  | k + 1, s => (storeRange k s).writeMem (s.i.toNat + k) (s.reg (BitVec.ofNat 4 k))

/-- Load `V[0]` to `V[n-1]` from `i` on, in increasing order (spec/44_index_memory.md R155). -/
def loadRange : Nat → State → State
  | 0, s => s
  | k + 1, s => (loadRange k s).setReg (BitVec.ofNat 4 k) (s.readMem (s.i.toNat + k))

/-- Bit `col` of a sprite byte, the most significant bit first (spec/40_display.md R101). -/
def spriteBit (b : Byte) (col : Nat) : Bool := b.getLsbD (7 - col)

/-- Column of a pixel, wrapped (R101). -/
def wrapX (a : Byte) (col : Nat) : Fin 64 := ⟨(a.toNat + col) % 64, Nat.mod_lt _ (by decide)⟩

/-- Row of a pixel, wrapped (R101). -/
def wrapY (a : Byte) (row : Nat) : Fin 32 := ⟨(a.toNat + row) % 32, Nat.mod_lt _ (by decide)⟩

/-- Plot and, on a collision, set VF; without one VF keeps its value (R101). -/
def plotFlagged (px : Fin 64) (py : Fin 32) (b : Bool) (s : State) : State :=
  (s.plot px py b).setReg vf (if s.collides px py b then 1 else s.reg vf)

/-- One pixel of a sprite. `x0`, `y0` are the coordinates before the instruction, `b` the row's byte. -/
def drawPixel (ord : AliasOrder) (x y : Reg) (x0 y0 : Byte) (b : Byte) (row col : Nat) (s : State) : State :=
  plotFlagged (wrapX (operandNow ord x x0 s) col) (wrapY (operandNow ord y y0 s) row) (spriteBit b col) s

/-- The first `cols` pixels of a row, in increasing order. -/
def drawCols (ord : AliasOrder) (x y : Reg) (x0 y0 : Byte) (b : Byte) (row : Nat) : Nat → State → State
  | 0, s => s
  | c + 1, s => drawPixel ord x y x0 y0 b row c (drawCols ord x y x0 y0 b row c s)

/-- The first `n` rows, in increasing order; row `k` is the byte of `m` at `i + k`. Drawing writes no memory. -/
def drawRows (ord : AliasOrder) (x y : Reg) (x0 y0 : Byte) (m : Memory) (i : Nat) : Nat → State → State
  | 0, s => s
  | r + 1, s => drawCols ord x y x0 y0 (Memory.read m (i + r)) r 8 (drawRows ord x y x0 y0 m i r s)

/-- The effect of DrawSprite on framebuffer and VF (R101, R102): VF is cleared, then the rows are drawn. -/
def drawSprite (ord : AliasOrder) (x y : Reg) (n : Nat) (s : State) : State :=
  drawRows ord x y (s.reg x) (s.reg y) s.mem s.i.toNat n (s.setReg vf 0)

end Sys2Proof.Machine
end

