-- ==== Sys2Proof/Machine/Control.lean ====
section
/-! DEFINITION. Control transfer and the return stack (spec/41_control_flow.md). -/

namespace Sys2Proof.Machine

/-- Return (R110). -/
def execReturn (s : State) : Result :=
  if s.sp = Config.spEmpty then raise .stackUnderflow (some (encode .ret)) none s
  else if h : s.sp.toNat < 16 then .next { s with sp := s.spBelow, pc := s.stack[s.sp.toNat] }
  else .fault .stackPointerOutOfRange

/-- Jump `addr` (R111). -/
def execJump (addr : Addr) (s : State) : Result := .next (s.setPc (zextAddr addr))

/-- Call `addr` (R112). -/
def execCall (addr : Addr) (s : State) : Result :=
  if h : s.nextSlot < 16 then .next ((s.pushAt s.nextSlot h (s.pc + 2)).setPc (zextAddr addr))
  else raise .stackOverflow (some (encode (.call addr))) none s

/-- JumpPlusV0 `addr` (R113). -/
def execJumpPlusV0 (addr : Addr) (s : State) : Result := .next (s.setPc (addrPlus addr (s.reg 0)))

end Sys2Proof.Machine
end

