-- ==== Sys2Proof/Machine/Display.lean ====
section
/-! DEFINITION. Display instructions (spec/40_display.md). -/

namespace Sys2Proof.Machine

/-- ClearScreen (R100). -/
def execClearScreen (s : State) : Result := .next s.clearScreen.advance

/-- DrawSprite under a given `ALIAS_ORDER` (R101, R102). -/
def drawSpriteWith (ord : AliasOrder) (x y : Reg) (n : Nibble) (s : State) : Result :=
  withSpan (encode (.drawSprite x y n)) n.toNat s (drawSprite ord x y n.toNat s).advance

/-- DrawSprite `Vx, Vy, n` (R101, R102). -/
def execDrawSprite (x y : Reg) (n : Nibble) (s : State) : Result := drawSpriteWith Config.aliasOrder x y n s

end Sys2Proof.Machine
end

