-- ==== Sys2Proof/Machine/IndexMemory.lean ====
section
/-! DEFINITION. Index register and memory transfers (spec/44_index_memory.md). -/

namespace Sys2Proof.Machine

/-- LoadIndex `addr` (R150). -/
def execLoadIndex (addr : Addr) (s : State) : Result := .next (s.setI (zextAddr addr)).advance

/-- AddIndexVx `Vx` (R151). -/
def execAddIndexVx (x : Reg) (s : State) : Result :=
  if s.i.toNat + (s.reg x).toNat < 0x10000 then .next (s.setI (s.i + (s.reg x).setWidth 16)).advance
  else raise .indexOverflow (some (encode (.addIndexVx x))) (some (s.i.toNat + (s.reg x).toNat)) s

/-- LoadFontVx `Vx` (R152). -/
def execLoadFontVx (x : Reg) (s : State) : Result := .next (s.setI (glyphAddress (s.reg x))).advance

/-- The three writes of StoreBCD, in order (R153). -/
def storeDigits (b : Byte) (s : State) : State :=
  ((s.writeMem s.i.toNat (hundreds b)).writeMem (s.i.toNat + 1) (tens b)).writeMem (s.i.toNat + 2) (ones b)

/-- StoreBCD `Vx` (R153). -/
def execStoreBCD (x : Reg) (s : State) : Result :=
  withSpan (encode (.storeBCD x)) 3 s (storeDigits (s.reg x) s).advance

/-- StoreRegisters `Vx` (R154): the range includes `x`. -/
def execStoreRegisters (x : Reg) (s : State) : Result :=
  withSpan (encode (.storeRegisters x)) (x.toNat + 1) s (storeRange (x.toNat + 1) s).advance

/-- LoadRegisters `Vx` (R155): the range includes `x`. -/
def execLoadRegisters (x : Reg) (s : State) : Result :=
  withSpan (encode (.loadRegisters x)) (x.toNat + 1) s (loadRange (x.toNat + 1) s).advance

end Sys2Proof.Machine
end

