-- ==== Sys2Proof/Machine/Skips.lean ====
section
/-! DEFINITION. Conditional skips (spec/42_skips.md). -/

namespace Sys2Proof.Machine

/-- SkipEqByte `Vx, byte` (R120). -/
def execSkipEqByte (x : Reg) (kk : Byte) (s : State) : Result := .next (s.skipIf (s.reg x == kk))

/-- SkipNeByte `Vx, byte` (R121). -/
def execSkipNeByte (x : Reg) (kk : Byte) (s : State) : Result := .next (s.skipIf (s.reg x != kk))

/-- SkipEqReg `Vx, Vy` (R122). -/
def execSkipEqReg (x y : Reg) (s : State) : Result := .next (s.skipIf (s.reg x == s.reg y))

/-- SkipNeReg `Vx, Vy` (R123). -/
def execSkipNeReg (x y : Reg) (s : State) : Result := .next (s.skipIf (s.reg x != s.reg y))

/-- SkipKeyPressed `Vx` (R124). -/
def execSkipKeyPressed (x : Reg) (s : State) : Result := skipOnKey (encode (.skipKeyPressed x)) x true s

/-- SkipKeyNotPressed `Vx` (R125). -/
def execSkipKeyNotPressed (x : Reg) (s : State) : Result := skipOnKey (encode (.skipKeyNotPressed x)) x false s

end Sys2Proof.Machine
end

