-- ==== Sys2Proof/Machine/TimersInput.lean ====
section
/-! DEFINITION. Timer and key-wait instructions (spec/45_timers_input.md). -/

namespace Sys2Proof.Machine

/-- LoadVxDelay `Vx` (R160). -/
def execLoadVxDelay (x : Reg) (s : State) : Result := .next (s.setReg x s.dt).advance

/-- LoadVxKey `Vx` (R161): while no key is available the step is complete and changes nothing. -/
def execLoadVxKey (x : Reg) (s : State) : Result :=
  if s.lastKey = Config.noneKey then .next s else .next (s.setReg x s.lastKey).consumeKey.advance

/-- LoadDelayVx `Vx` (R162). -/
def execLoadDelayVx (x : Reg) (s : State) : Result := .next (s.setDt (s.reg x)).advance

/-- LoadSoundVx `Vx` (R163): the sound starts whatever the value (90_conflicts.md C3). -/
def execLoadSoundVx (x : Reg) (s : State) : Result := .next (s.setSt (s.reg x)).startSound.advance

end Sys2Proof.Machine
end

