-- ==== Sys2Proof/Machine/Dispatch.lean ====
section
/-! DEFINITION. The meaning of each instruction: one arm per constructor (spec/30_encoding.md R68, R73). -/

namespace Sys2Proof.Machine

/-- `Execute(kind, args)` of spec/30_encoding.md R75. Ignored bits (R71) are not passed on. -/
def exec (i : Instr) (s : State) : Host.Outcome State Fault Refusal :=
  match i with
  | .clearScreen => Sys2Proof.Machine.execClearScreen s
  | .ret => Sys2Proof.Machine.execReturn s
  | .jump addr => Sys2Proof.Machine.execJump addr s
  | .call addr => Sys2Proof.Machine.execCall addr s
  | .skipEqByte x kk => Sys2Proof.Machine.execSkipEqByte x kk s
  | .skipNeByte x kk => Sys2Proof.Machine.execSkipNeByte x kk s
  | .skipEqReg x y _ => Sys2Proof.Machine.execSkipEqReg x y s
  | .loadByte x kk => Sys2Proof.Machine.execLoadByte x kk s
  | .addByte x kk => Sys2Proof.Machine.execAddByte x kk s
  | .loadReg x y => Sys2Proof.Machine.execLoadReg x y s
  | .orReg x y => Sys2Proof.Machine.execOr x y s
  | .andReg x y => Sys2Proof.Machine.execAnd x y s
  | .xorReg x y => Sys2Proof.Machine.execXor x y s
  | .addReg x y => Sys2Proof.Machine.execAddReg x y s
  | .subReg x y => Sys2Proof.Machine.execSubReg x y s
  | .shiftRight x _ => Sys2Proof.Machine.execShiftRight x s
  | .subnReg x y => Sys2Proof.Machine.execSubnReg x y s
  | .shiftLeft x _ => Sys2Proof.Machine.execShiftLeft x s
  | .skipNeReg x y _ => Sys2Proof.Machine.execSkipNeReg x y s
  | .loadIndex addr => Sys2Proof.Machine.execLoadIndex addr s
  | .jumpPlusV0 addr => Sys2Proof.Machine.execJumpPlusV0 addr s
  | .random x kk => Sys2Proof.Machine.execRandom x kk s
  | .skipKeyPressed x => Sys2Proof.Machine.execSkipKeyPressed x s
  | .skipKeyNotPressed x => Sys2Proof.Machine.execSkipKeyNotPressed x s
  | .drawSprite x y n => Sys2Proof.Machine.execDrawSprite x y n s
  | .loadVxDelay x => Sys2Proof.Machine.execLoadVxDelay x s
  | .loadVxKey x => Sys2Proof.Machine.execLoadVxKey x s
  | .loadDelayVx x => Sys2Proof.Machine.execLoadDelayVx x s
  | .loadSoundVx x => Sys2Proof.Machine.execLoadSoundVx x s
  | .addIndexVx x => Sys2Proof.Machine.execAddIndexVx x s
  | .loadFontVx x => Sys2Proof.Machine.execLoadFontVx x s
  | .storeBCD x => Sys2Proof.Machine.execStoreBCD x s
  | .storeRegisters x => Sys2Proof.Machine.execStoreRegisters x s
  | .loadRegisters x => Sys2Proof.Machine.execLoadRegisters x s

end Sys2Proof.Machine
end

