-- ==== Sys2Proof/Machine/Platform.lean ====
section
/-! DEFINITION. The host's operations other than `step`: `reset`, `load`, `tick` (spec/60_exceptions.md R211,
spec/70_reset_and_hazards.md R250, R251) and the host's write of `last_key` (R225, R260). -/

namespace Sys2Proof.Machine

/-- `reset()` (R250): every core element takes its R35 value, no collaborator state changes, and the boot phase begins.
Allowed in every state, the halted one included. -/
def resetCall (s : State) : State :=
  { s with
    v := Vector.replicate 16 0
    pc := Config.programStart
    i := 0
    stack := Vector.replicate 16 0
    sp := Config.spEmpty
    dt := 0
    st := 0
    mem := []
    halt := .running
    boot := true }

/-- `load(image)` (R251, R202): in the boot phase of a running machine an image of 4096 bytes replaces memory;
otherwise the operation is refused. -/
def loadCall (image : List Byte) (s : State) : Result :=
  if s.boot = true ∧ s.halt = .running then
    if image.length = Config.memSize then .next { s with mem := Memory.ofImage 0 image } else .refused .imageSize
  else .refused .loadOutsideBoot

/-- `if dt > 0: dt <- dt - 1` (R211). -/
def countDelay (s : State) : State := if s.dt = 0 then s else s.setDt (s.dt - 1)

/-- `if st > 0: st <- st - 1; if st = 0: StopSound()` (R211). -/
def countSound (s : State) : State :=
  if s.st = 0 then s
  else if s.st - 1 = 0 then (s.setSt 0).stopSound
  else s.setSt (s.st - 1)

/-- `tick()` (R211, R202): a halted machine has no transition. -/
def tickCall (s : State) : Result :=
  if s.halt = .running then .next { countSound (countDelay s) with boot := false } else .fault .halted

/-- The host's duty for `last_key`: a key value 0x0 to 0xF or `NONE_KEY` (R260). -/
def lastKeyAllowed (key : Byte) : Bool := decide (key.toNat < 16) || key == Config.noneKey

/-- The host writes `last_key` between steps (R225, R260). -/
def setLastKeyCall (key : Byte) (s : State) : Result :=
  if lastKeyAllowed key then .next { s with lastKey := key } else .refused .lastKeyValue

end Sys2Proof.Machine
end

