-- ==== Sys2Proof/Machine/Transact.lean ====
section
/-! DEFINITION. The transactions of the block (spec/00_scope.md R6): one instruction step (spec/30_encoding.md R75), and
each call of the host. -/

namespace Sys2Proof.Machine

/-- Decode and execute an opcode (R75): an opcode of no entry raises `DecodeFailure` (R67). -/
def runWord (op : Word) (s : State) : Result :=
  match decode [(bytesOfWord op).1, (bytesOfWord op).2] with
  | .ok (i, _) => exec i s
  | .error _ => raise .decodeFailure (some op) none s

/-- `step(keys)` with `keys` already in place (R75): fetch, decode, execute. A halted machine has no transition (R77).
The boot phase ends (R251). -/
def stepCall (s : State) : Result :=
  if s.halt = .running then
    match s.fetch with
    | some op => runWord op { s with boot := false }
    | none => raise .addressOutOfBounds none none { s with boot := false }
  else .fault .halted

/-- One host call (R6, R260). -/
def perform (c : HostCall) (s : State) : Result :=
  match c with
  | .reset => .next (resetCall s)
  | .load image => loadCall image s
  | .step keys => stepCall { s with keys := keys }
  | .tick => tickCall s
  | .setLastKey key => setLastKeyCall key s

/-- The next transaction: the host's next pending call, or, when none is pending, a `step` with the keys as they are
(log entry 4). -/
def transact (s : State) : Result :=
  match s.pending with
  | [] => stepCall s
  | c :: rest => perform c { s with pending := rest }

/-- Put an opcode at `pc` and let the machine run it next: its two bytes in memory, no host call before it, and the
machine running. -/
def placeOpcode (op : Word) (s : State) : State :=
  { (s.writeMem s.pc.toNat (bytesOfWord op).1).writeMem (s.pc.toNat + 1) (bytesOfWord op).2 with
    halt := .running, pending := [] }

end Sys2Proof.Machine
end

