-- ==== Sys2Proof/Machine/Step.lean ====
section
/-! DEFINITION. The step of the machine: one transaction (spec/00_scope.md R6). -/

namespace Sys2Proof.Machine

/-- One transaction: the host's next pending call, or one instruction. -/
def step (s : State) : Host.Outcome State Fault Refusal := transact s

/-- The state with the instruction whose bits are `w` placed where the next step fetches. -/
def State.withFetchWord (s : State) (nbits w : Nat) : State := placeOpcode (BitVec.ofNat 16 (w % 2 ^ nbits)) s

end Sys2Proof.Machine
end

