-- ==== Sys2Proof/Safety.lean ====
section
/-! DEFINITION. The terms claims are stated in: the invariant of the machine, the end of a run, which instruction may
write or read what (spec/10_state.md R34), the pc policy as a table (spec/30_encoding.md R76), and reference forms of
the opcode list and of the sprite. -/

namespace Sys2Proof

/-! ### Encodings -/

/-- Every opcode that agrees with `pattern` under `mask` is the instruction `f` reads from it. -/
def Encodes (mask pattern : Word) (f : Word → Instr) : Prop :=
  ∀ op : Word, op &&& mask = pattern → decodeWord op = some (f op)

/-- The illegal opcodes as spec/30_encoding.md R72 lists them, by top nibble and low nibble or byte. -/
def illegalOpcode (m : Mask59) (op : Word) : Prop :=
  let top := op.toNat / 0x1000
  let low := op.toNat % 0x10
  let byte := op.toNat % 0x100
  (top = 0x0 ∧ op.toNat ≠ 0x00E0 ∧ op.toNat ≠ 0x00EE) ∨
  ((top = 0x5 ∨ top = 0x9) ∧ low ≠ 0 ∧ m = .fine) ∨
  (top = 0x8 ∧ low ∈ [0x8, 0x9, 0xA, 0xB, 0xC, 0xD, 0xF]) ∨
  (top = 0xE ∧ byte ∉ [0x9E, 0xA1]) ∨
  (top = 0xF ∧ byte ∉ [0x07, 0x0A, 0x15, 0x18, 0x1E, 0x29, 0x33, 0x55, 0x65])

/-- The registers an instruction may write: the destinations R34 names, and VF where it is a flag (R22). -/
def Instr.mayWrite (r : Reg) : Instr → Bool
  | .clearScreen => false
  | .ret => false
  | .jump _ => false
  | .call _ => false
  | .skipEqByte _ _ => false
  | .skipNeByte _ _ => false
  | .skipEqReg _ _ _ => false
  | .loadByte x _ => r == x
  | .addByte x _ => r == x
  | .loadReg x _ => r == x
  | .orReg x _ => r == x
  | .andReg x _ => r == x
  | .xorReg x _ => r == x
  | .addReg x _ => r == x || r == 15
  | .subReg x _ => r == x || r == 15
  | .shiftRight x _ => r == x || r == 15
  | .subnReg x _ => r == x || r == 15
  | .shiftLeft x _ => r == x || r == 15
  | .skipNeReg _ _ _ => false
  | .loadIndex _ => false
  | .jumpPlusV0 _ => false
  | .random x _ => r == x
  | .skipKeyPressed _ => false
  | .skipKeyNotPressed _ => false
  | .drawSprite _ _ _ => r == 15
  | .loadVxDelay x => r == x
  | .loadVxKey x => r == x
  | .loadDelayVx _ => false
  | .loadSoundVx _ => false
  | .addIndexVx _ => false
  | .loadFontVx _ => false
  | .storeBCD _ => false
  | .storeRegisters _ => false
  | .loadRegisters x => decide (r.toNat ≤ x.toNat)

namespace Machine

/-! ### The invariant -/

/-- What every transaction keeps: the sentinel rule of R26, the pc bound of R23 with the return addresses behind it, the
canonical memory, the values of `last_key` a host may write (R225, R260), and two facts about `halt`. -/
structure State.Inv (s : State) : Prop where
  /-- `sp` is a slot index or the sentinel (R26). -/
  spLegal : s.sp.toNat < 16 ∨ s.sp = 0xFF
  /-- The pc never passes 0x10FE (R23). -/
  pcBound : s.pc.toNat ≤ 0x10FE
  /-- A return address is at most 0x1000 (spec/41_control_flow.md R112). -/
  stackBound : ∀ (k : Nat) (h : k < 16), (s.stack[k]).toNat ≤ 0x1000
  /-- Memory keeps its canonical form. -/
  memWf : Memory.wf s.mem = true
  /-- `last_key` is a key value or `NONE_KEY` (R225). -/
  lastKeyLegal : s.lastKey.toNat < 16 ∨ s.lastKey = 255
  /-- The boot phase is over once a step has faulted (R251). -/
  bootRuns : s.boot = true → s.halt = .running
  /-- The diagnostic's pc is the pc (R201). -/
  faultAtPc : ∀ kind p op a, s.halt = .faulted kind p op a → p = s.pc

/-! ### The end of a run -/

/-- A successful end (spec/70_reset_and_hazards.md R261): running, with `Jump pc` at `pc`. -/
def State.ended (s : State) : Prop :=
  s.halt = .running ∧ s.pc.toNat ≤ 0xFFE ∧ s.fetch = some (0x1000 ||| s.pc)

/-! ### Who writes and reads what (R34) -/

/-- StoreBCD and StoreRegisters write memory. -/
def storesMemory (i : Instr) : Prop := (∃ x, i = .storeBCD x) ∨ ∃ x, i = .storeRegisters x

/-- LoadIndex, AddIndexVx and LoadFontVx write `i` (R24). -/
def writesIndex (i : Instr) : Prop := (∃ a, i = .loadIndex a) ∨ (∃ x, i = .addIndexVx x) ∨ ∃ x, i = .loadFontVx x

/-- Call and Return write `sp`; only Call writes a slot (R25). -/
def writesSp (i : Instr) : Prop := i = .ret ∨ ∃ a, i = .call a

/-- ClearScreen and DrawSprite write the framebuffer. -/
def writesScreen (i : Instr) : Prop := i = .clearScreen ∨ ∃ x y n, i = .drawSprite x y n

/-- SkipKeyPressed and SkipKeyNotPressed read `keys`. -/
def readsKeys (i : Instr) : Prop := (∃ x, i = .skipKeyPressed x) ∨ ∃ x, i = .skipKeyNotPressed x

/-! ### The pc policy -/

/-- `pc` after an instruction that raises no fault: the table of spec/30_encoding.md R76. -/
def pcAfter (i : Instr) (s : State) : Word :=
  let skip (c : Prop) [Decidable c] : Word := if c then s.pc + 4 else s.pc + 2
  match i with
  | .clearScreen => s.pc + 2
  | .ret => s.stack[s.sp.toNat]?.getD 0
  | .jump a => BitVec.ofNat 16 a.toNat
  | .call a => BitVec.ofNat 16 a.toNat
  | .skipEqByte x kk => skip (s.reg x = kk)
  | .skipNeByte x kk => skip (s.reg x ≠ kk)
  | .skipEqReg x y _ => skip (s.reg x = s.reg y)
  | .loadByte _ _ => s.pc + 2
  | .addByte _ _ => s.pc + 2
  | .loadReg _ _ => s.pc + 2
  | .orReg _ _ => s.pc + 2
  | .andReg _ _ => s.pc + 2
  | .xorReg _ _ => s.pc + 2
  | .addReg _ _ => s.pc + 2
  | .subReg _ _ => s.pc + 2
  | .shiftRight _ _ => s.pc + 2
  | .subnReg _ _ => s.pc + 2
  | .shiftLeft _ _ => s.pc + 2
  | .skipNeReg x y _ => skip (s.reg x ≠ s.reg y)
  | .loadIndex _ => s.pc + 2
  | .jumpPlusV0 a => BitVec.ofNat 16 (a.toNat + (s.reg 0).toNat)
  | .random _ _ => s.pc + 2
  | .skipKeyPressed x => skip (s.keys.getLsbD (s.reg x).toNat = true)
  | .skipKeyNotPressed x => skip (s.keys.getLsbD (s.reg x).toNat = false)
  | .drawSprite _ _ _ => s.pc + 2
  | .loadVxDelay _ => s.pc + 2
  | .loadVxKey _ => if s.lastKey = 255 then s.pc else s.pc + 2
  | .loadDelayVx _ => s.pc + 2
  | .loadSoundVx _ => s.pc + 2
  | .addIndexVx _ => s.pc + 2
  | .loadFontVx _ => s.pc + 2
  | .storeBCD _ => s.pc + 2
  | .storeRegisters _ => s.pc + 2
  | .loadRegisters _ => s.pc + 2

/-! ### The sprite, said twice -/

/-- Whether the sprite of `n` rows at (`x0`, `y0`) has its bit set at a pixel: the pixel's row and column in the sprite
are its distances from the corner, modulo the screen (spec/40_display.md R101). -/
def spriteAt (s : State) (x0 y0 : Byte) (n : Nat) (px : Fin 64) (py : Fin 32) : Bool :=
  let row := (py.val + 32 - y0.toNat % 32) % 32
  let col := (px.val + 64 - x0.toNat % 64) % 64
  decide (row < n) && decide (col < 8) && (s.readMem (s.i.toNat + row)).getLsbD (7 - col)

/-- The pixels of a sprite of `n` rows in the order they are plotted: row by row, most significant bit first. -/
def spriteOrder (n : Nat) : List (Nat × Nat) :=
  (List.range n).flatMap fun row => (List.range 8).map fun col => (row, col)

/-- A coordinate at a pixel: its value before the instruction, but under `sequential` VF reads as the collision flag so
far (spec/40_display.md R102). -/
def spriteCoordinate (ord : AliasOrder) (r : Reg) (before : Byte) (hit : Bool) : Byte :=
  if r = 15 ∧ ord = .sequential then (if hit then 1 else 0) else before

/-- One `Plot` over a framebuffer and a collision flag (spec/60_exceptions.md R221). -/
def spritePlot (ord : AliasOrder) (x y : Reg) (s : State) (acc : Screen × Bool) (p : Nat × Nat) : Screen × Bool :=
  let px := ((spriteCoordinate ord x (s.reg x) acc.2).toNat + p.2) % 64
  let py := ((spriteCoordinate ord y (s.reg y) acc.2).toNat + p.1) % 32
  let b := (s.readMem (s.i.toNat + p.1)).getLsbD (7 - p.2)
  have hx : px < 64 := Nat.mod_lt _ (by decide)
  have hy : py < 32 := Nat.mod_lt _ (by decide)
  let old := acc.1[py][px]
  (acc.1.set py (acc.1[py].set px (old ^^ b)), acc.2 || (old && b))

/-- The framebuffer and the collision flag after the whole sprite (R101, R102). -/
def spriteLoop (ord : AliasOrder) (x y : Reg) (n : Nat) (s : State) : Screen × Bool :=
  (spriteOrder n).foldl (spritePlot ord x y s) (s.fb, false)

end Machine

end Sys2Proof
end

