-- ==== Sys2Proof/Certificates/Slice0/Obligations.lean ====
section
/-! DEFINITION. The statements for the provers. A frame is written by putting the fields an instruction may change back:
`{ t with v := s.v, pc := s.pc } = s` says that `t` and `s` agree in every field but `v` and `pc`. -/

open Sys2Proof Sys2Proof.Machine

/-! ### Encoding -/

/-- Every well-formed instruction is what its own opcode decodes to (spec/30_encoding.md R61, R66, R68, R70), the ignored
bits that `Instr` keeps by the model's choice (log entry 8) included. -/
def Obligations.DecodeOfEncodeIsTheInstruction : Prop :=
  ∀ i : Instr, i.WellFormed → decodeWord (encode i) = some i

/-- An opcode that decodes is the opcode of the instruction it decodes to: no bit is dropped. This is the model's choice:
`Instr` keeps the bits the spec ignores (R71), so that an instruction determines its opcode (DESIGN CHOICE, log entry 8);
the spec's own decoding gives a kind and arguments only (R66). -/
def Obligations.EncodeOfDecodeIsTheOpcode : Prop :=
  ∀ (op : Word) (i : Instr), decodeWord op = some i → i.WellFormed ∧ encode i = op

/-- No opcode matches two entries, and one that matches none does not decode, for both values of `MASK_5_9` (R64). -/
def Obligations.NoOpcodeMatchesTwoEntries : Prop :=
  ∀ m : Mask59,
    catalog.Pairwise (fun e f => ∀ op : Word, ¬(op &&& e.maskFor m = e.pattern ∧ op &&& f.maskFor m = f.pattern)) ∧
    ∀ op : Word, (∀ e ∈ catalog, op &&& e.maskFor m ≠ e.pattern) → decodeWordFor m op = none

/-- The opcodes that do not decode are the ones the table of R72 lists, for both values of `MASK_5_9`. -/
def Obligations.IllegalOpcodesAreTheListedOnes : Prop :=
  ∀ (m : Mask59) (op : Word), decodeWordFor m op = none ↔ illegalOpcode m op

/-- Words written out from the encodings of R68, one of each family, and what they stand for. -/
def Obligations.SpecWordsDecode : Prop :=
  decodeWord 0b0000000011100000 = some .clearScreen ∧
  decodeWord 0b0001001000001000 = some (.jump 0x208) ∧
  decodeWord 0b0011001100010000 = some (.skipEqByte 3 0x10) ∧
  decodeWord 0b1000000100100101 = some (.subReg 1 2) ∧
  decodeWord 0b1111000000110011 = some (.storeBCD 0) ∧
  decodeWord 0b1111001000001010 = some (.loadVxKey 2) ∧
  decodeWordFor .fine 0b0101000100100001 = none ∧
  decodeWordFor .coarse 0b0101000100100001 = some (.skipEqReg 1 2 1)

/-- The argument list of a decoded instruction is what the argument rules of its entry extract (spec/30_encoding.md R63,
R66, R69). The last clause is the spec's own inference, not its source's: "Every rule of rule R68 yields at most 8 bits, so
the truncation never changes a value [derived: from the masks of rule R61]" (R63). -/
def Obligations.DecodedArgumentsFollowTheRules : Prop :=
  ∀ (op : Word) (i : Instr), decodeWord op = some i →
    ∃ e ∈ catalog, op &&& e.maskFor Config.mask59 = e.pattern ∧ i = e.read op ∧
      i.args = e.rules.map (fun r => r.apply op) ∧ i.args.length ≤ 3 ∧
      ∀ r ∈ e.rules, ((op &&& r.mask) >>> r.shift).toNat < 0x100

/-- Every `0x8xy6` is ShiftRight and every `0x8xyE` ShiftLeft, whatever `y` is (R71). -/
def Obligations.ShiftsIgnoreY : Prop :=
  (∀ x y : Reg, ∃ y', decodeWord (BitVec.ofNat 16 (0x8006 + x.toNat * 0x100 + y.toNat * 0x10)) = some (.shiftRight x y')) ∧
  (∀ x y : Reg, ∃ y', decodeWord (BitVec.ofNat 16 (0x800E + x.toNat * 0x100 + y.toNat * 0x10)) = some (.shiftLeft x y')) ∧
  ∀ (x y y' : Reg) (s : State), exec (.shiftRight x y) s = exec (.shiftRight x y') s ∧
    exec (.shiftLeft x y) s = exec (.shiftLeft x y') s

/-! ### Fetch and the step -/

/-- Fetch composes two bytes, the lower address first, and leaves the pc alone; when `pc + 1` is no memory index the
step of a running machine raises `AddressOutOfBounds` and writes nothing else (spec/20_memory.md R42). -/
def Obligations.FetchIsBigEndianAndBounded : Prop :=
  ∀ s : State,
    (s.pc.toNat + 1 ≤ 0xFFF →
      s.fetch = some (BitVec.ofNat 16 ((s.readMem s.pc.toNat).toNat * 0x100 + (s.readMem (s.pc.toNat + 1)).toNat))) ∧
    (0xFFF < s.pc.toNat + 1 → s.halt = .running → ∀ keys rest,
      ∃ t, step { s with pending := .step keys :: rest } = .next t ∧
        t.halt = .faulted .addressOutOfBounds s.pc none none ∧
        { t with halt := s.halt, boot := s.boot, pending := s.pending, keys := s.keys } = s)

/-- When the bytes at the pc of a running machine decode to `i`, the step is `exec` of `i`: under a pending `step(keys)`
with those keys in place (spec/30_encoding.md R75), and with no host call pending with the keys as they are, which is the
model's choice (log entry 4). Either way the boot phase is over (R251, log entry 6). -/
def Obligations.StepRunsDecodedInstruction : Prop :=
  ∀ (s : State) (i : Instr), s.halt = .running → s.pc.toNat ≤ 0xFFE →
    decode [s.readMem s.pc.toNat, s.readMem (s.pc.toNat + 1)] = .ok (i, []) →
    (s.pending = [] → step s = exec i { s with boot := false }) ∧
    ∀ keys rest, s.pending = .step keys :: rest →
      step s = exec i { s with keys := keys, pending := rest, boot := false }

/-- An opcode that matches no entry raises `DecodeFailure`, recording `pc` and the opcode, and writes nothing else
(spec/30_encoding.md R67). -/
def Obligations.UnmatchedOpcodeRaisesDecodeFailure : Prop :=
  ∀ (s : State) (op : Word) (keys : BitVec 16) (rest : List HostCall),
    s.halt = .running → s.fetch = some op → (∀ e ∈ catalog, op &&& e.maskFor Config.mask59 ≠ e.pattern) →
    ∃ t, step { s with pending := .step keys :: rest } = .next t ∧
      t.halt = .faulted .decodeFailure s.pc (some op) none ∧
      { t with halt := s.halt, boot := s.boot, pending := s.pending, keys := s.keys } = s

/-- A halted machine: `step`, `tick` and `load` have no transition, a write of `last_key` leaves it halted,
only `reset` makes it run, and it is no successful end (spec/30_encoding.md R77, spec/60_exceptions.md R202). -/
def Obligations.HaltedMachineOnlyResets : Prop :=
  ∀ (s : State) (keys : BitVec 16) (image : List Byte) (key : Byte) (rest : List HostCall), s.halt ≠ .running →
    (∀ t, step { s with pending := .step keys :: rest } ≠ .next t) ∧
    (∀ t, step { s with pending := .tick :: rest } ≠ .next t) ∧
    (∀ t, step { s with pending := .load image :: rest } ≠ .next t) ∧
    (∀ t, step { s with pending := .setLastKey key :: rest } = .next t → t.halt = s.halt) ∧
    (∃ t, step { s with pending := .reset :: rest } = .next t ∧ t.halt = .running) ∧
    ¬ s.ended

/-! ### Display -/

/-- ClearScreen (spec/40_display.md R100). -/
def Obligations.ClearScreenClearsEveryPixel : Prop :=
  Encodes 0xFFFF 0x00E0 (fun _ => .clearScreen) ∧
  ∀ s : State, ∃ t, exec .clearScreen s = .next t ∧ { t with fb := s.fb, pc := s.pc } = s ∧
    t.pc = s.pc + 2 ∧ ∀ px py, t.pixel px py = false

/-- DrawSprite with neither coordinate in VF: every pixel is XORed with the sprite's bit there, VF says whether a set
pixel was cleared, and nothing else but the pc changes (spec/40_display.md R101). -/
def Obligations.DrawSpriteXorsTheSprite : Prop :=
  ∀ (x y : Reg) (n : Nibble) (s : State), x ≠ 15 → y ≠ 15 → (n.toNat = 0 ∨ s.i.toNat + n.toNat ≤ 0x1000) →
    ∃ t, exec (.drawSprite x y n) s = .next t ∧ { t with v := s.v, fb := s.fb, pc := s.pc } = s ∧ t.pc = s.pc + 2 ∧
      (∀ px py, t.pixel px py = (s.pixel px py ^^ spriteAt s (s.reg x) (s.reg y) n.toNat px py)) ∧
      (t.reg 15 = if ∃ px py, (s.pixel px py && spriteAt s (s.reg x) (s.reg y) n.toNat px py) = true then 1 else 0) ∧
      ∀ r, r ≠ 15 → t.reg r = s.reg r

/-- DrawSprite in every form: it plots the sprite's bits in order, each at the wrapped sum of the coordinates as
`ALIAS_ORDER` reads them there, and VF is the collision flag; a row past 0xFFF faults with the lowest such address and
plots nothing (spec/40_display.md R101, R102). -/
def Obligations.DrawSpriteRunsThePixelLoop : Prop :=
  Encodes 0xF000 0xD000 (fun op => .drawSprite (fieldX op) (fieldY op) (fieldN op)) ∧
  ∀ (x y : Reg) (n : Nibble) (s : State),
    (n.toNat = 0 ∨ s.i.toNat + n.toNat ≤ 0x1000 →
      exec (.drawSprite x y n) s = .next { s with
        fb := (spriteLoop Config.aliasOrder x y n.toNat s).1
        v := s.v.set 15 (if (spriteLoop Config.aliasOrder x y n.toNat s).2 then 1 else 0)
        pc := s.pc + 2 }) ∧
    (n.toNat ≠ 0 ∧ 0x1000 < s.i.toNat + n.toNat →
      exec (.drawSprite x y n) s = .next { s with
        halt := .faulted .dataAddressOutOfBounds s.pc
          (some (BitVec.ofNat 16 (0xD000 + x.toNat * 0x100 + y.toNat * 0x10 + n.toNat))) (some (max s.i.toNat 0x1000)) })

/-! ### Control transfer -/

/-- Return (spec/41_control_flow.md R110). -/
def Obligations.ReturnPopsTheStack : Prop :=
  Encodes 0xFFFF 0x00EE (fun _ => .ret) ∧
  ∀ s : State,
    (s.sp = 0xFF → exec .ret s = .next { s with halt := .faulted .stackUnderflow s.pc (some 0x00EE) none }) ∧
    ∀ h : s.sp.toNat < 16, ∃ t, exec .ret s = .next t ∧ { t with pc := s.pc, sp := s.sp } = s ∧
      t.pc = s.stack[s.sp.toNat] ∧ t.sp.toNat = if s.sp.toNat = 0 then 0xFF else s.sp.toNat - 1

/-- Jump (spec/41_control_flow.md R111). -/
def Obligations.JumpSetsThePc : Prop :=
  Encodes 0xF000 0x1000 (fun op => .jump (fieldAddr op)) ∧
  ∀ (addr : Addr) (s : State), exec (.jump addr) s = .next { s with pc := BitVec.ofNat 16 addr.toNat }

/-- Call (spec/41_control_flow.md R112). -/
def Obligations.CallPushesTheReturnAddress : Prop :=
  Encodes 0xF000 0x2000 (fun op => .call (fieldAddr op)) ∧
  ∀ (addr : Addr) (s : State),
    (s.sp.toNat = 0xFF ∨ s.sp.toNat < 15 →
      ∃ t slot, exec (.call addr) s = .next t ∧ { t with stack := s.stack, sp := s.sp, pc := s.pc } = s ∧
        slot = (if s.sp.toNat = 0xFF then 0 else s.sp.toNat + 1) ∧ t.sp.toNat = slot ∧
        t.stack[slot]? = some (s.pc + 2) ∧ (∀ k, k ≠ slot → t.stack[k]? = s.stack[k]?) ∧
        t.pc.toNat = addr.toNat) ∧
    (s.sp.toNat ≠ 0xFF → 15 ≤ s.sp.toNat →
      exec (.call addr) s = .next { s with
        halt := .faulted .stackOverflow s.pc (some (BitVec.ofNat 16 (0x2000 + addr.toNat))) none })

/-- JumpPlusV0 (spec/41_control_flow.md R113): the sum is exact, not modulo 0x1000. -/
def Obligations.JumpPlusV0AddsWithoutWrap : Prop :=
  Encodes 0xF000 0xB000 (fun op => .jumpPlusV0 (fieldAddr op)) ∧
  ∀ (addr : Addr) (s : State), ∃ t, exec (.jumpPlusV0 addr) s = .next t ∧ { t with pc := s.pc } = s ∧
    t.pc.toNat = addr.toNat + (s.reg 0).toNat

/-- A Return after a Call, wherever the subroutine has moved the pc, resumes after the Call with the stack pointer as it
was (spec/41_control_flow.md R114). -/
def Obligations.ReturnAfterCallResumesBehindIt : Prop :=
  ∀ (addr : Addr) (s t : State) (p : Word), (s.sp = 0xFF ∨ s.sp.toNat < 15) → exec (.call addr) s = .next t →
    ∃ u, exec .ret { t with pc := p } = .next u ∧ u.pc = s.pc + 2 ∧ u.sp = s.sp ∧
      { u with stack := s.stack, pc := s.pc } = s

/-! ### Skips -/

/-- SkipEqByte and SkipNeByte (spec/42_skips.md R120, R121). -/
def Obligations.ByteSkipsCompare : Prop :=
  Encodes 0xF000 0x3000 (fun op => .skipEqByte (fieldX op) (fieldKK op)) ∧
  Encodes 0xF000 0x4000 (fun op => .skipNeByte (fieldX op) (fieldKK op)) ∧
  ∀ (x : Reg) (kk : Byte) (s : State),
    exec (.skipEqByte x kk) s = .next { s with pc := if (s.reg x).toNat = kk.toNat then s.pc + 4 else s.pc + 2 } ∧
    exec (.skipNeByte x kk) s = .next { s with pc := if (s.reg x).toNat = kk.toNat then s.pc + 2 else s.pc + 4 }

/-- SkipEqReg and SkipNeReg, with the mask `MASK_5_9` (spec/42_skips.md R122, R123). -/
def Obligations.RegisterSkipsCompare : Prop :=
  Encodes Config.mask59.word 0x5000 (fun op => .skipEqReg (fieldX op) (fieldY op) (fieldN op)) ∧
  Encodes Config.mask59.word 0x9000 (fun op => .skipNeReg (fieldX op) (fieldY op) (fieldN op)) ∧
  ∀ (x y : Reg) (n : Nibble) (s : State),
    exec (.skipEqReg x y n) s =
      .next { s with pc := if (s.reg x).toNat = (s.reg y).toNat then s.pc + 4 else s.pc + 2 } ∧
    exec (.skipNeReg x y n) s =
      .next { s with pc := if (s.reg x).toNat = (s.reg y).toNat then s.pc + 2 else s.pc + 4 }

/-- SkipKeyPressed and SkipKeyNotPressed (spec/42_skips.md R124, R125). -/
def Obligations.KeySkipsTestTheKey : Prop :=
  Encodes 0xF0FF 0xE09E (fun op => .skipKeyPressed (fieldX op)) ∧
  Encodes 0xF0FF 0xE0A1 (fun op => .skipKeyNotPressed (fieldX op)) ∧
  ∀ (x : Reg) (s : State),
    ((s.reg x).toNat ≤ 15 →
      exec (.skipKeyPressed x) s =
        .next { s with pc := if s.keys.getLsbD (s.reg x).toNat = true then s.pc + 4 else s.pc + 2 } ∧
      exec (.skipKeyNotPressed x) s =
        .next { s with pc := if s.keys.getLsbD (s.reg x).toNat = true then s.pc + 2 else s.pc + 4 }) ∧
    (15 < (s.reg x).toNat →
      exec (.skipKeyPressed x) s = .next { s with
        halt := .faulted .keyIndexOutOfRange s.pc (some (BitVec.ofNat 16 (0xE09E + x.toNat * 0x100))) (some (s.reg x).toNat) } ∧
      exec (.skipKeyNotPressed x) s = .next { s with
        halt := .faulted .keyIndexOutOfRange s.pc (some (BitVec.ofNat 16 (0xE0A1 + x.toNat * 0x100))) (some (s.reg x).toNat) })

/-! ### Register loads, arithmetic and logic -/

/-- LoadByte and LoadReg (spec/43_alu.md R132, R134). -/
def Obligations.LoadsWriteTheOperand : Prop :=
  Encodes 0xF000 0x6000 (fun op => .loadByte (fieldX op) (fieldKK op)) ∧
  Encodes 0xF00F 0x8000 (fun op => .loadReg (fieldX op) (fieldY op)) ∧
  (∀ (x : Reg) (kk : Byte) (s : State), ∃ t, exec (.loadByte x kk) s = .next t ∧
    { t with v := s.v, pc := s.pc } = s ∧ t.pc = s.pc + 2 ∧ t.reg x = kk ∧ ∀ r, r ≠ x → t.reg r = s.reg r) ∧
  ∀ (x y : Reg) (s : State), ∃ t, exec (.loadReg x y) s = .next t ∧
    { t with v := s.v, pc := s.pc } = s ∧ t.pc = s.pc + 2 ∧ t.reg x = s.reg y ∧ ∀ r, r ≠ x → t.reg r = s.reg r

/-- AddByte (spec/43_alu.md R133): modulo 2^8, no flag. -/
def Obligations.AddByteWrapsWithoutFlag : Prop :=
  Encodes 0xF000 0x7000 (fun op => .addByte (fieldX op) (fieldKK op)) ∧
  ∀ (x : Reg) (kk : Byte) (s : State), ∃ t, exec (.addByte x kk) s = .next t ∧
    { t with v := s.v, pc := s.pc } = s ∧ t.pc = s.pc + 2 ∧
    (t.reg x).toNat = ((s.reg x).toNat + kk.toNat) % 0x100 ∧ ∀ r, r ≠ x → t.reg r = s.reg r

/-- Or, And and Xor, bit by bit; VF is unchanged unless it is `Vx` (spec/43_alu.md R135, R136, R137). -/
def Obligations.LogicCombinesBitByBit : Prop :=
  Encodes 0xF00F 0x8001 (fun op => .orReg (fieldX op) (fieldY op)) ∧
  Encodes 0xF00F 0x8002 (fun op => .andReg (fieldX op) (fieldY op)) ∧
  Encodes 0xF00F 0x8003 (fun op => .xorReg (fieldX op) (fieldY op)) ∧
  ∀ (x y : Reg) (s : State),
    (∃ t, exec (.orReg x y) s = .next t ∧ { t with v := s.v, pc := s.pc } = s ∧ t.pc = s.pc + 2 ∧
      (∀ k, (t.reg x).getLsbD k = ((s.reg x).getLsbD k || (s.reg y).getLsbD k)) ∧ ∀ r, r ≠ x → t.reg r = s.reg r) ∧
    (∃ t, exec (.andReg x y) s = .next t ∧ { t with v := s.v, pc := s.pc } = s ∧ t.pc = s.pc + 2 ∧
      (∀ k, (t.reg x).getLsbD k = ((s.reg x).getLsbD k && (s.reg y).getLsbD k)) ∧ ∀ r, r ≠ x → t.reg r = s.reg r) ∧
    ∃ t, exec (.xorReg x y) s = .next t ∧ { t with v := s.v, pc := s.pc } = s ∧ t.pc = s.pc + 2 ∧
      (∀ k, (t.reg x).getLsbD k = ((s.reg x).getLsbD k ^^ (s.reg y).getLsbD k)) ∧ ∀ r, r ≠ x → t.reg r = s.reg r

/-- AddReg (spec/43_alu.md R138): the carry in VF, the sum in `V[x]`; with `x = 15` VF ends holding the sum. -/
def Obligations.AddRegCarriesIntoVF : Prop :=
  Encodes 0xF00F 0x8004 (fun op => .addReg (fieldX op) (fieldY op)) ∧
  ∀ (x y : Reg) (s : State), ∃ t, exec (.addReg x y) s = .next t ∧
    { t with v := s.v, pc := s.pc } = s ∧ t.pc = s.pc + 2 ∧
    (t.reg x).toNat = ((s.reg x).toNat + (s.reg y).toNat) % 0x100 ∧
    (x ≠ 15 → (t.reg 15).toNat = if 255 < (s.reg x).toNat + (s.reg y).toNat then 1 else 0) ∧
    ∀ r, r ≠ x → r ≠ 15 → t.reg r = s.reg r

/-- SubReg (spec/43_alu.md R139), with the table of its VF cases. -/
def Obligations.SubRegFlagsStrictlyGreater : Prop :=
  Encodes 0xF00F 0x8005 (fun op => .subReg (fieldX op) (fieldY op)) ∧
  ∀ (x y : Reg) (s : State) (a b f : Nat), a = (s.reg x).toNat → b = (s.reg y).toNat → f = (if b < a then 1 else 0) →
    ∃ t, exec (.subReg x y) s = .next t ∧ { t with v := s.v, pc := s.pc } = s ∧ t.pc = s.pc + 2 ∧
      (∀ r, r ≠ x → r ≠ 15 → t.reg r = s.reg r) ∧ (x ≠ 15 → (t.reg 15).toNat = f) ∧
      (t.reg x).toNat =
        if x = 15 ∧ y = 15 then 0
        else if x = 15 then (match Config.aliasOrder with
          | .snapshot => (a + 256 - b) % 256
          | .sequential => (f + 256 - b) % 256)
        else if y = 15 then (match Config.aliasOrder with
          | .snapshot => (a + 256 - b) % 256
          | .sequential => (a + 256 - f) % 256)
        else (a + 256 - b) % 256

/-- SubnReg (spec/43_alu.md R141), with the table of its VF cases. -/
def Obligations.SubnRegFlagsStrictlyGreater : Prop :=
  Encodes 0xF00F 0x8007 (fun op => .subnReg (fieldX op) (fieldY op)) ∧
  ∀ (x y : Reg) (s : State) (a b f : Nat), a = (s.reg x).toNat → b = (s.reg y).toNat → f = (if a < b then 1 else 0) →
    ∃ t, exec (.subnReg x y) s = .next t ∧ { t with v := s.v, pc := s.pc } = s ∧ t.pc = s.pc + 2 ∧
      (∀ r, r ≠ x → r ≠ 15 → t.reg r = s.reg r) ∧ (x ≠ 15 → (t.reg 15).toNat = f) ∧
      (t.reg x).toNat =
        if x = 15 ∧ y = 15 then 0
        else if x = 15 then (match Config.aliasOrder with
          | .snapshot => (b + 256 - a) % 256
          | .sequential => (b + 256 - f) % 256)
        else if y = 15 then (match Config.aliasOrder with
          | .snapshot => (b + 256 - a) % 256
          | .sequential => (f + 256 - a) % 256)
        else (b + 256 - a) % 256

/-- ShiftRight (spec/43_alu.md R140), with its VF case. -/
def Obligations.ShiftRightMovesBitZeroToVF : Prop :=
  Encodes 0xF00F 0x8006 (fun op => .shiftRight (fieldX op) (fieldY op)) ∧
  ∀ (x y : Reg) (s : State), ∃ t, exec (.shiftRight x y) s = .next t ∧
    { t with v := s.v, pc := s.pc } = s ∧ t.pc = s.pc + 2 ∧ (∀ r, r ≠ x → r ≠ 15 → t.reg r = s.reg r) ∧
    (x ≠ 15 → (t.reg 15).toNat = (s.reg x).toNat % 2) ∧
    (t.reg x).toNat =
      if x = 15 then (match Config.aliasOrder with | .snapshot => (s.reg x).toNat / 2 | .sequential => 0)
      else (s.reg x).toNat / 2

/-- ShiftLeft (spec/43_alu.md R142), with its VF case. -/
def Obligations.ShiftLeftMovesBitSevenToVF : Prop :=
  Encodes 0xF00F 0x800E (fun op => .shiftLeft (fieldX op) (fieldY op)) ∧
  ∀ (x y : Reg) (s : State), ∃ t, exec (.shiftLeft x y) s = .next t ∧
    { t with v := s.v, pc := s.pc } = s ∧ t.pc = s.pc + 2 ∧ (∀ r, r ≠ x → r ≠ 15 → t.reg r = s.reg r) ∧
    (x ≠ 15 → (t.reg 15).toNat = (s.reg x).toNat / 128) ∧
    (t.reg x).toNat =
      if x = 15 then
        (match Config.aliasOrder with
          | .snapshot => (s.reg x).toNat * 2 % 256
          | .sequential => (s.reg x).toNat / 128 * 2)
      else (s.reg x).toNat * 2 % 256

/-- Random (spec/43_alu.md R143): the draw of this execution, whatever it is, masked by the immediate. The draw is a
free value, `Config.randomByte` of a counter that Random advances: the model's form (log entry 3). -/
def Obligations.RandomMasksAFreeByte : Prop :=
  Encodes 0xF000 0xC000 (fun op => .random (fieldX op) (fieldKK op)) ∧
  ∀ (x : Reg) (kk : Byte) (s : State), ∃ t, exec (.random x kk) s = .next t ∧
    { t with v := s.v, pc := s.pc, draws := s.draws } = s ∧ t.pc = s.pc + 2 ∧ t.draws = s.draws + 1 ∧
    (∀ k, (t.reg x).getLsbD k = ((Config.randomByte s.draws).getLsbD k && kk.getLsbD k)) ∧
    ∀ r, r ≠ x → t.reg r = s.reg r

/-! ### Index register and memory -/

/-- LoadIndex (spec/44_index_memory.md R150). -/
def Obligations.LoadIndexSetsI : Prop :=
  Encodes 0xF000 0xA000 (fun op => .loadIndex (fieldAddr op)) ∧
  ∀ (addr : Addr) (s : State),
    exec (.loadIndex addr) s = .next { s with i := BitVec.ofNat 16 addr.toNat, pc := s.pc + 2 }

/-- AddIndexVx (spec/44_index_memory.md R151): no flag; a sum above 0xFFFF faults. -/
def Obligations.AddIndexVxAddsOrFaults : Prop :=
  Encodes 0xF0FF 0xF01E (fun op => .addIndexVx (fieldX op)) ∧
  ∀ (x : Reg) (s : State),
    (s.i.toNat + (s.reg x).toNat ≤ 0xFFFF → ∃ t, exec (.addIndexVx x) s = .next t ∧
      { t with i := s.i, pc := s.pc } = s ∧ t.pc = s.pc + 2 ∧ t.i.toNat = s.i.toNat + (s.reg x).toNat) ∧
    (0xFFFF < s.i.toNat + (s.reg x).toNat →
      exec (.addIndexVx x) s = .next { s with
        halt := .faulted .indexOverflow s.pc (some (BitVec.ofNat 16 (0xF01E + x.toNat * 0x100)))
          (some (s.i.toNat + (s.reg x).toNat)) })

/-- LoadFontVx (spec/44_index_memory.md R152): the exact product. -/
def Obligations.LoadFontVxPointsAtTheGlyph : Prop :=
  Encodes 0xF0FF 0xF029 (fun op => .loadFontVx (fieldX op)) ∧
  ∀ (x : Reg) (s : State), ∃ t, exec (.loadFontVx x) s = .next t ∧
    { t with i := s.i, pc := s.pc } = s ∧ t.pc = s.pc + 2 ∧ t.i.toNat = (s.reg x).toNat * 5

/-- StoreBCD (spec/44_index_memory.md R153), over any memory in canonical form. -/
def Obligations.StoreBCDStoresThreeDigits : Prop :=
  Encodes 0xF0FF 0xF033 (fun op => .storeBCD (fieldX op)) ∧
  ∀ (x : Reg) (s : State), Memory.wf s.mem = true →
    (s.i.toNat + 2 ≤ 0xFFF → ∃ t, exec (.storeBCD x) s = .next t ∧ { t with mem := s.mem, pc := s.pc } = s ∧
      t.pc = s.pc + 2 ∧
      (t.readMem s.i.toNat).toNat = (s.reg x).toNat / 100 ∧
      (t.readMem (s.i.toNat + 1)).toNat = (s.reg x).toNat / 10 % 10 ∧
      (t.readMem (s.i.toNat + 2)).toNat = (s.reg x).toNat % 10 ∧
      ∀ a, a < s.i.toNat ∨ s.i.toNat + 2 < a → t.readMem a = s.readMem a) ∧
    (0xFFF < s.i.toNat + 2 →
      exec (.storeBCD x) s = .next { s with
        halt := .faulted .dataAddressOutOfBounds s.pc (some (BitVec.ofNat 16 (0xF033 + x.toNat * 0x100)))
          (some (max s.i.toNat 0x1000)) })

/-- StoreRegisters (spec/44_index_memory.md R154), over any memory in canonical form: the range includes `x`. -/
def Obligations.StoreRegistersStoresTheRange : Prop :=
  Encodes 0xF0FF 0xF055 (fun op => .storeRegisters (fieldX op)) ∧
  ∀ (x : Reg) (s : State), Memory.wf s.mem = true →
    (s.i.toNat + x.toNat ≤ 0xFFF → ∃ t, exec (.storeRegisters x) s = .next t ∧
      { t with mem := s.mem, pc := s.pc } = s ∧ t.pc = s.pc + 2 ∧
      (∀ r : Reg, r.toNat ≤ x.toNat → t.readMem (s.i.toNat + r.toNat) = s.reg r) ∧
      ∀ a, a < s.i.toNat ∨ s.i.toNat + x.toNat < a → t.readMem a = s.readMem a) ∧
    (0xFFF < s.i.toNat + x.toNat →
      exec (.storeRegisters x) s = .next { s with
        halt := .faulted .dataAddressOutOfBounds s.pc (some (BitVec.ofNat 16 (0xF055 + x.toNat * 0x100)))
          (some (max s.i.toNat 0x1000)) })

/-- LoadRegisters (spec/44_index_memory.md R155): the range includes `x`. -/
def Obligations.LoadRegistersLoadsTheRange : Prop :=
  Encodes 0xF0FF 0xF065 (fun op => .loadRegisters (fieldX op)) ∧
  ∀ (x : Reg) (s : State),
    (s.i.toNat + x.toNat ≤ 0xFFF → ∃ t, exec (.loadRegisters x) s = .next t ∧
      { t with v := s.v, pc := s.pc } = s ∧ t.pc = s.pc + 2 ∧
      (∀ r : Reg, r.toNat ≤ x.toNat → t.reg r = s.readMem (s.i.toNat + r.toNat)) ∧
      ∀ r : Reg, x.toNat < r.toNat → t.reg r = s.reg r) ∧
    (0xFFF < s.i.toNat + x.toNat →
      exec (.loadRegisters x) s = .next { s with
        halt := .faulted .dataAddressOutOfBounds s.pc (some (BitVec.ofNat 16 (0xF065 + x.toNat * 0x100)))
          (some (max s.i.toNat 0x1000)) })

/-- Storing a range and loading it back, whatever the registers hold in between, restores V0 to Vx
(spec/44_index_memory.md R154, R155). -/
def Obligations.LoadRegistersRestoresStoredRange : Prop :=
  ∀ (x : Reg) (s t : State) (w : Vector Byte 16) (p : Word), Memory.wf s.mem = true → s.i.toNat + x.toNat ≤ 0xFFF →
    exec (.storeRegisters x) s = .next t →
    ∃ u, exec (.loadRegisters x) { t with v := w, pc := p } = .next u ∧ u.i = s.i ∧ u.pc = p + 2 ∧
      ∀ r : Reg, r.toNat ≤ x.toNat → u.reg r = s.reg r

/-- A store is seen by the next fetch: StoreRegisters and StoreBCD over the bytes at `pc + 2` and `pc + 3` change the next
opcode (spec/20_memory.md R52). -/
def Obligations.StoreIsSeenByTheNextFetch : Prop :=
  ∀ (x : Reg) (s : State), Memory.wf s.mem = true → s.i = s.pc + 2 → s.pc.toNat + 4 ≤ 0xFFF →
    (1 ≤ x.toNat → s.i.toNat + x.toNat ≤ 0xFFF →
      ∃ t, exec (.storeRegisters x) s = .next t ∧
        t.fetch = some (BitVec.ofNat 16 ((s.reg 0).toNat * 0x100 + (s.reg 1).toNat))) ∧
    ∃ t, exec (.storeBCD x) s = .next t ∧
      t.fetch = some (BitVec.ofNat 16 ((s.reg x).toNat / 100 * 0x100 + (s.reg x).toNat / 10 % 10))

/-! ### Timers, sound and keys -/

/-- LoadVxDelay and LoadDelayVx (spec/45_timers_input.md R160, R162). -/
def Obligations.DelayTimerMoves : Prop :=
  Encodes 0xF0FF 0xF007 (fun op => .loadVxDelay (fieldX op)) ∧
  Encodes 0xF0FF 0xF015 (fun op => .loadDelayVx (fieldX op)) ∧
  ∀ (x : Reg) (s : State),
    (∃ t, exec (.loadVxDelay x) s = .next t ∧ { t with v := s.v, pc := s.pc } = s ∧ t.pc = s.pc + 2 ∧
      t.reg x = s.dt ∧ ∀ r, r ≠ x → t.reg r = s.reg r) ∧
    exec (.loadDelayVx x) s = .next { s with dt := s.reg x, pc := s.pc + 2 }

/-- LoadVxKey (spec/45_timers_input.md R161): it waits in place, or takes the key and consumes it. -/
def Obligations.LoadVxKeyWaitsOrConsumes : Prop :=
  Encodes 0xF0FF 0xF00A (fun op => .loadVxKey (fieldX op)) ∧
  ∀ (x : Reg) (s : State),
    (s.lastKey = 255 → exec (.loadVxKey x) s = .next s) ∧
    (s.lastKey ≠ 255 → ∃ t, exec (.loadVxKey x) s = .next t ∧
      { t with v := s.v, lastKey := s.lastKey, pc := s.pc } = s ∧ t.pc = s.pc + 2 ∧ t.lastKey = 255 ∧
      t.reg x = s.lastKey ∧ ∀ r, r ≠ x → t.reg r = s.reg r)

/-- LoadSoundVx (spec/45_timers_input.md R163): the sound starts whatever the value. For the value 0 the spec follows one
of two sentences of its source and warns that the implementation may follow the other (90_conflicts.md C3, D17). -/
def Obligations.LoadSoundVxStartsTheSound : Prop :=
  Encodes 0xF0FF 0xF018 (fun op => .loadSoundVx (fieldX op)) ∧
  ∀ (x : Reg) (s : State),
    exec (.loadSoundVx x) s = .next { s with st := s.reg x, soundOn := true, pc := s.pc + 2 }

/-- `tick()` (spec/60_exceptions.md R211): both timers of a running machine count down to 0 and stop there, the sound
stops exactly when `st` becomes 0, and no other element of the spec's changes; a halted machine has no transition. -/
def Obligations.TickCountsBothTimersDown : Prop :=
  ∀ (s : State) (rest : List HostCall),
    (s.halt = .running → ∃ t, step { s with pending := .tick :: rest } = .next t ∧
      { t with dt := s.dt, st := s.st, soundOn := s.soundOn, boot := s.boot, pending := s.pending } = s ∧
      t.dt.toNat = s.dt.toNat - 1 ∧ t.st.toNat = s.st.toNat - 1 ∧
      t.soundOn = if s.st.toNat = 1 then false else s.soundOn) ∧
    (s.halt ≠ .running → ∀ t, step { s with pending := .tick :: rest } ≠ .next t)

/-! ### Reset, load and the end of a run -/

/-- The reset values (spec/10_state.md R35, spec/70_reset_and_hazards.md R250): at power-on, and after `reset()` in every
state, which leaves the collaborators' state alone. -/
def Obligations.ResetValuesAreTheListedOnes : Prop :=
  let core (t : State) : Prop :=
    (∀ a, t.readMem a = 0) ∧ (∀ r, t.reg r = 0) ∧ t.pc = 0x200 ∧ t.i = 0 ∧ t.dt = 0 ∧ t.st = 0 ∧ t.sp = 0xFF ∧
    (∀ (k : Nat) (h : k < 16), t.stack[k] = 0) ∧ t.halt = .running
  (core State.reset ∧ (∀ px py, State.reset.pixel px py = false) ∧ State.reset.soundOn = false ∧
    State.reset.keys = 0 ∧ State.reset.lastKey = 255) ∧
  ∀ (s : State) (rest : List HostCall), ∃ t, step { s with pending := .reset :: rest } = .next t ∧ core t ∧
    t.fb = s.fb ∧ t.soundOn = s.soundOn ∧ t.keys = s.keys ∧ t.lastKey = s.lastKey

/-- `load(image)` (spec/70_reset_and_hazards.md R251): in the boot phase an image of 4096 bytes becomes the whole memory
and nothing else changes; an image of another length, or a load outside the boot phase, has no transition. The boot phase
is the model's field `boot` (log entry 6). -/
def Obligations.LoadReplacesMemory : Prop :=
  ∀ (s : State) (image : List Byte) (rest : List HostCall),
    (s.boot = true → s.halt = .running → image.length = 4096 →
      ∃ t, step { s with pending := .load image :: rest } = .next t ∧
        { t with mem := s.mem, pending := s.pending } = s ∧ t.pending = rest ∧ Memory.wf t.mem = true ∧
        ∀ (a : Nat) (h : a < image.length), t.readMem a = image[a]) ∧
    (image.length ≠ 4096 ∨ s.boot = false → ∀ t, step { s with pending := .load image :: rest } ≠ .next t)

/-- The host's write of `last_key` between steps (spec/60_exceptions.md R225, spec/70_reset_and_hazards.md R260): a key
value or `NONE_KEY` is written and nothing else changes; any other value has no move. -/
def Obligations.HostWritesLastKey : Prop :=
  ∀ (s : State) (key : Byte) (rest : List HostCall),
    (key.toNat ≤ 0xF ∨ key = 255 →
      step { s with pending := .setLastKey key :: rest } = .next { s with lastKey := key, pending := rest }) ∧
    (0xF < key.toNat ∧ key ≠ 255 → ∀ t, step { s with pending := .setLastKey key :: rest } ≠ .next t)

/-- A self-jump repeats for ever (spec/70_reset_and_hazards.md R261): at a successful end `step(keys)` changes nothing
but the keys supplied and that the boot phase is over (log entry 6), and the machine is at the same end. So does the step
that follows when no host call is pending, which is the model's choice (log entry 4). -/
def Obligations.EndStateRepeats : Prop :=
  ∀ s : State, s.ended →
    (∀ keys rest, s.pending = .step keys :: rest →
      step s = .next { s with keys := keys, pending := rest, boot := false } ∧
      State.ended { s with keys := keys, pending := rest, boot := false }) ∧
    (s.pending = [] → step s = .next { s with boot := false } ∧ State.ended { s with boot := false })

/-! ### Whole-machine rules -/

/-- The invariant holds at reset. -/
def Obligations.InvariantHoldsAtReset : Prop := State.reset.Inv

/-- Every transaction keeps the invariant: the sentinel rule of R26, the pc bound of R23, the canonical memory, the values
of `last_key`, from every state that has them. -/
def Obligations.EveryStepKeepsTheInvariant : Prop :=
  ∀ s t : State, s.Inv → step s = .next t → t.Inv

/-- Faults are precise: a step that ends in a fault leaves the state before it, plus `halt`, which holds the pc and the
opcode fetched, or no opcode where the fetch is what failed (spec/60_exceptions.md R201, R203). -/
def Obligations.FaultsChangeOnlyHalt : Prop :=
  ∀ (s t : State) (keys : BitVec 16) (rest : List HostCall), s.halt = .running →
    step { s with pending := .step keys :: rest } = .next t → t.halt ≠ .running →
    { t with halt := s.halt, boot := s.boot, pending := s.pending, keys := s.keys } = s ∧
    ∃ kind addr, t.halt = .faulted kind s.pc s.fetch addr

/-- No instruction writes a register but its destinations, and VF where it is a flag (spec/10_state.md R22, R34). -/
def Obligations.RegistersAreWrittenOnlyWhereNamed : Prop :=
  ∀ (i : Instr) (s t : State) (r : Reg), exec i s = .next t → i.mayWrite r = false → t.reg r = s.reg r

/-- Every other element is written only by the instructions R34 names; `keys`, the boot phase and the host's calls by
none (spec/10_state.md R24, R25, R34). -/
def Obligations.ElementsAreWrittenOnlyWhereNamed : Prop :=
  ∀ (i : Instr) (s t : State), exec i s = .next t →
    (¬ storesMemory i → ∀ a, t.readMem a = s.readMem a) ∧
    (¬ writesIndex i → t.i = s.i) ∧
    ((∀ a, i ≠ .call a) → t.stack = s.stack) ∧
    (¬ writesSp i → t.sp = s.sp) ∧
    ((∀ x, i ≠ .loadDelayVx x) → t.dt = s.dt) ∧
    ((∀ x, i ≠ .loadSoundVx x) → t.st = s.st ∧ t.soundOn = s.soundOn) ∧
    ((∀ x, i ≠ .loadVxKey x) → t.lastKey = s.lastKey) ∧
    (¬ writesScreen i → t.fb = s.fb) ∧
    ((∀ x kk, i ≠ .random x kk) → t.draws = s.draws) ∧
    t.keys = s.keys ∧ t.boot = s.boot ∧ t.pending = s.pending

/-- No program can read the sound timer or the sound: an instruction run with another `st` and `sound_on` gives the same
state but for these two (spec/10_state.md R28, R34). -/
def Obligations.SoundIsUnobservable : Prop :=
  ∀ (i : Instr) (s t : State) (w : Byte) (b : Bool), exec i s = .next t →
    ∃ t', exec i { s with st := w, soundOn := b } = .next t' ∧ { t' with st := t.st, soundOn := t.soundOn } = t

/-- Only the two key skips read `keys` (spec/10_state.md R34, spec/60_exceptions.md R224). -/
def Obligations.OnlyKeySkipsReadKeys : Prop :=
  ∀ (i : Instr) (s t : State) (k : BitVec 16), ¬ readsKeys i → exec i s = .next t →
    exec i { s with keys := k } = .next { t with keys := k }

/-- The pc after every instruction that raises no fault is the one the table of the pc policy gives, and no sum of the
table wraps at an instruction that can be fetched (spec/30_encoding.md R76). -/
def Obligations.PcFollowsThePolicy : Prop :=
  ∀ (i : Instr) (s t : State), exec i s = .next t → t.halt = .running → t.pc = pcAfter i s ∧
    (s.pc.toNat ≤ 0xFFE → (s.pc + 2).toNat = s.pc.toNat + 2 ∧ (s.pc + 4).toNat = s.pc.toNat + 4) ∧
    ∀ a, i = .jumpPlusV0 a → t.pc.toNat = a.toNat + (s.reg 0).toNat

/-! ### The boot phase -/

/-- The boot phase begins at `reset()`, whatever the state, and a `load` is then allowed; it ends at the first `tick` or
`step`, one that faults included; `load` and the host's write of `last_key` leave it as it is
(spec/70_reset_and_hazards.md R251, R253). That one bit of State holds the phase is the model's (DEDUCED, log entry 6), and
so is the step taken when no call is pending (log entry 4). -/
def Obligations.BootPhaseIsFromResetToTheFirstStepOrTick : Prop :=
  (∀ (s : State) (rest : List HostCall), ∃ t, step { s with pending := .reset :: rest } = .next t ∧ t.boot = true ∧
    ∀ (image : List Byte) (more : List HostCall), image.length = 4096 →
      ∃ u, step { t with pending := .load image :: more } = .next u) ∧
  (∀ (s : State) (rest : List HostCall), s.halt = .running →
    ∃ t, step { s with pending := .tick :: rest } = .next t ∧ t.boot = false) ∧
  ∀ s t : State, step s = .next t → t.boot =
    match s.pending with
    | [] => false
    | .reset :: _ => true
    | .load _ :: _ => s.boot
    | .step _ :: _ => false
    | .tick :: _ => false
    | .setLastKey _ :: _ => s.boot
end

