-- ==== Sys2Proof/Laws/State.lean ====
section
/-! SUPPORT. One lemma per field per update, true by rfl, so that no later proof unfolds a record update. -/

namespace Sys2Proof.Machine

/-! ### setReg -/

@[simp] theorem State.setReg_pc (s : State) (r : Reg) (w : Byte) : (s.setReg r w).pc = s.pc := rfl
@[simp] theorem State.setReg_i (s : State) (r : Reg) (w : Byte) : (s.setReg r w).i = s.i := rfl
@[simp] theorem State.setReg_stack (s : State) (r : Reg) (w : Byte) : (s.setReg r w).stack = s.stack := rfl
@[simp] theorem State.setReg_sp (s : State) (r : Reg) (w : Byte) : (s.setReg r w).sp = s.sp := rfl
@[simp] theorem State.setReg_dt (s : State) (r : Reg) (w : Byte) : (s.setReg r w).dt = s.dt := rfl
@[simp] theorem State.setReg_st (s : State) (r : Reg) (w : Byte) : (s.setReg r w).st = s.st := rfl
@[simp] theorem State.setReg_mem (s : State) (r : Reg) (w : Byte) : (s.setReg r w).mem = s.mem := rfl
@[simp] theorem State.setReg_halt (s : State) (r : Reg) (w : Byte) : (s.setReg r w).halt = s.halt := rfl
@[simp] theorem State.setReg_fb (s : State) (r : Reg) (w : Byte) : (s.setReg r w).fb = s.fb := rfl
@[simp] theorem State.setReg_soundOn (s : State) (r : Reg) (w : Byte) : (s.setReg r w).soundOn = s.soundOn := rfl
@[simp] theorem State.setReg_keys (s : State) (r : Reg) (w : Byte) : (s.setReg r w).keys = s.keys := rfl
@[simp] theorem State.setReg_lastKey (s : State) (r : Reg) (w : Byte) : (s.setReg r w).lastKey = s.lastKey := rfl
@[simp] theorem State.setReg_boot (s : State) (r : Reg) (w : Byte) : (s.setReg r w).boot = s.boot := rfl
@[simp] theorem State.setReg_draws (s : State) (r : Reg) (w : Byte) : (s.setReg r w).draws = s.draws := rfl
@[simp] theorem State.setReg_pending (s : State) (r : Reg) (w : Byte) : (s.setReg r w).pending = s.pending := rfl

/-! ### setPc -/

@[simp] theorem State.setPc_v (s : State) (t : Word) : (s.setPc t).v = s.v := rfl
@[simp] theorem State.setPc_pc (s : State) (t : Word) : (s.setPc t).pc = t := rfl
@[simp] theorem State.setPc_i (s : State) (t : Word) : (s.setPc t).i = s.i := rfl
@[simp] theorem State.setPc_stack (s : State) (t : Word) : (s.setPc t).stack = s.stack := rfl
@[simp] theorem State.setPc_sp (s : State) (t : Word) : (s.setPc t).sp = s.sp := rfl
@[simp] theorem State.setPc_dt (s : State) (t : Word) : (s.setPc t).dt = s.dt := rfl
@[simp] theorem State.setPc_st (s : State) (t : Word) : (s.setPc t).st = s.st := rfl
@[simp] theorem State.setPc_mem (s : State) (t : Word) : (s.setPc t).mem = s.mem := rfl
@[simp] theorem State.setPc_halt (s : State) (t : Word) : (s.setPc t).halt = s.halt := rfl
@[simp] theorem State.setPc_fb (s : State) (t : Word) : (s.setPc t).fb = s.fb := rfl
@[simp] theorem State.setPc_soundOn (s : State) (t : Word) : (s.setPc t).soundOn = s.soundOn := rfl
@[simp] theorem State.setPc_keys (s : State) (t : Word) : (s.setPc t).keys = s.keys := rfl
@[simp] theorem State.setPc_lastKey (s : State) (t : Word) : (s.setPc t).lastKey = s.lastKey := rfl
@[simp] theorem State.setPc_boot (s : State) (t : Word) : (s.setPc t).boot = s.boot := rfl
@[simp] theorem State.setPc_draws (s : State) (t : Word) : (s.setPc t).draws = s.draws := rfl
@[simp] theorem State.setPc_pending (s : State) (t : Word) : (s.setPc t).pending = s.pending := rfl

/-! ### advance -/

@[simp] theorem State.advance_v (s : State) : s.advance.v = s.v := rfl
@[simp] theorem State.advance_pc (s : State) : s.advance.pc = s.pc + 2 := rfl
@[simp] theorem State.advance_i (s : State) : s.advance.i = s.i := rfl
@[simp] theorem State.advance_stack (s : State) : s.advance.stack = s.stack := rfl
@[simp] theorem State.advance_sp (s : State) : s.advance.sp = s.sp := rfl
@[simp] theorem State.advance_dt (s : State) : s.advance.dt = s.dt := rfl
@[simp] theorem State.advance_st (s : State) : s.advance.st = s.st := rfl
@[simp] theorem State.advance_mem (s : State) : s.advance.mem = s.mem := rfl
@[simp] theorem State.advance_halt (s : State) : s.advance.halt = s.halt := rfl
@[simp] theorem State.advance_fb (s : State) : s.advance.fb = s.fb := rfl
@[simp] theorem State.advance_soundOn (s : State) : s.advance.soundOn = s.soundOn := rfl
@[simp] theorem State.advance_keys (s : State) : s.advance.keys = s.keys := rfl
@[simp] theorem State.advance_lastKey (s : State) : s.advance.lastKey = s.lastKey := rfl
@[simp] theorem State.advance_boot (s : State) : s.advance.boot = s.boot := rfl
@[simp] theorem State.advance_draws (s : State) : s.advance.draws = s.draws := rfl
@[simp] theorem State.advance_pending (s : State) : s.advance.pending = s.pending := rfl

/-! ### skipIf -/

@[simp] theorem State.skipIf_v (s : State) (c : Bool) : (s.skipIf c).v = s.v := rfl
@[simp] theorem State.skipIf_pc (s : State) (c : Bool) : (s.skipIf c).pc = if c then s.pc + 4 else s.pc + 2 := rfl
@[simp] theorem State.skipIf_i (s : State) (c : Bool) : (s.skipIf c).i = s.i := rfl
@[simp] theorem State.skipIf_stack (s : State) (c : Bool) : (s.skipIf c).stack = s.stack := rfl
@[simp] theorem State.skipIf_sp (s : State) (c : Bool) : (s.skipIf c).sp = s.sp := rfl
@[simp] theorem State.skipIf_dt (s : State) (c : Bool) : (s.skipIf c).dt = s.dt := rfl
@[simp] theorem State.skipIf_st (s : State) (c : Bool) : (s.skipIf c).st = s.st := rfl
@[simp] theorem State.skipIf_mem (s : State) (c : Bool) : (s.skipIf c).mem = s.mem := rfl
@[simp] theorem State.skipIf_halt (s : State) (c : Bool) : (s.skipIf c).halt = s.halt := rfl
@[simp] theorem State.skipIf_fb (s : State) (c : Bool) : (s.skipIf c).fb = s.fb := rfl
@[simp] theorem State.skipIf_soundOn (s : State) (c : Bool) : (s.skipIf c).soundOn = s.soundOn := rfl
@[simp] theorem State.skipIf_keys (s : State) (c : Bool) : (s.skipIf c).keys = s.keys := rfl
@[simp] theorem State.skipIf_lastKey (s : State) (c : Bool) : (s.skipIf c).lastKey = s.lastKey := rfl
@[simp] theorem State.skipIf_boot (s : State) (c : Bool) : (s.skipIf c).boot = s.boot := rfl
@[simp] theorem State.skipIf_draws (s : State) (c : Bool) : (s.skipIf c).draws = s.draws := rfl
@[simp] theorem State.skipIf_pending (s : State) (c : Bool) : (s.skipIf c).pending = s.pending := rfl

/-! ### setI -/

@[simp] theorem State.setI_v (s : State) (t : Word) : (s.setI t).v = s.v := rfl
@[simp] theorem State.setI_pc (s : State) (t : Word) : (s.setI t).pc = s.pc := rfl
@[simp] theorem State.setI_i (s : State) (t : Word) : (s.setI t).i = t := rfl
@[simp] theorem State.setI_stack (s : State) (t : Word) : (s.setI t).stack = s.stack := rfl
@[simp] theorem State.setI_sp (s : State) (t : Word) : (s.setI t).sp = s.sp := rfl
@[simp] theorem State.setI_dt (s : State) (t : Word) : (s.setI t).dt = s.dt := rfl
@[simp] theorem State.setI_st (s : State) (t : Word) : (s.setI t).st = s.st := rfl
@[simp] theorem State.setI_mem (s : State) (t : Word) : (s.setI t).mem = s.mem := rfl
@[simp] theorem State.setI_halt (s : State) (t : Word) : (s.setI t).halt = s.halt := rfl
@[simp] theorem State.setI_fb (s : State) (t : Word) : (s.setI t).fb = s.fb := rfl
@[simp] theorem State.setI_soundOn (s : State) (t : Word) : (s.setI t).soundOn = s.soundOn := rfl
@[simp] theorem State.setI_keys (s : State) (t : Word) : (s.setI t).keys = s.keys := rfl
@[simp] theorem State.setI_lastKey (s : State) (t : Word) : (s.setI t).lastKey = s.lastKey := rfl
@[simp] theorem State.setI_boot (s : State) (t : Word) : (s.setI t).boot = s.boot := rfl
@[simp] theorem State.setI_draws (s : State) (t : Word) : (s.setI t).draws = s.draws := rfl
@[simp] theorem State.setI_pending (s : State) (t : Word) : (s.setI t).pending = s.pending := rfl

/-! ### setDt -/

@[simp] theorem State.setDt_v (s : State) (t : Byte) : (s.setDt t).v = s.v := rfl
@[simp] theorem State.setDt_pc (s : State) (t : Byte) : (s.setDt t).pc = s.pc := rfl
@[simp] theorem State.setDt_i (s : State) (t : Byte) : (s.setDt t).i = s.i := rfl
@[simp] theorem State.setDt_stack (s : State) (t : Byte) : (s.setDt t).stack = s.stack := rfl
@[simp] theorem State.setDt_sp (s : State) (t : Byte) : (s.setDt t).sp = s.sp := rfl
@[simp] theorem State.setDt_dt (s : State) (t : Byte) : (s.setDt t).dt = t := rfl
@[simp] theorem State.setDt_st (s : State) (t : Byte) : (s.setDt t).st = s.st := rfl
@[simp] theorem State.setDt_mem (s : State) (t : Byte) : (s.setDt t).mem = s.mem := rfl
@[simp] theorem State.setDt_halt (s : State) (t : Byte) : (s.setDt t).halt = s.halt := rfl
@[simp] theorem State.setDt_fb (s : State) (t : Byte) : (s.setDt t).fb = s.fb := rfl
@[simp] theorem State.setDt_soundOn (s : State) (t : Byte) : (s.setDt t).soundOn = s.soundOn := rfl
@[simp] theorem State.setDt_keys (s : State) (t : Byte) : (s.setDt t).keys = s.keys := rfl
@[simp] theorem State.setDt_lastKey (s : State) (t : Byte) : (s.setDt t).lastKey = s.lastKey := rfl
@[simp] theorem State.setDt_boot (s : State) (t : Byte) : (s.setDt t).boot = s.boot := rfl
@[simp] theorem State.setDt_draws (s : State) (t : Byte) : (s.setDt t).draws = s.draws := rfl
@[simp] theorem State.setDt_pending (s : State) (t : Byte) : (s.setDt t).pending = s.pending := rfl

/-! ### setSt -/

@[simp] theorem State.setSt_v (s : State) (t : Byte) : (s.setSt t).v = s.v := rfl
@[simp] theorem State.setSt_pc (s : State) (t : Byte) : (s.setSt t).pc = s.pc := rfl
@[simp] theorem State.setSt_i (s : State) (t : Byte) : (s.setSt t).i = s.i := rfl
@[simp] theorem State.setSt_stack (s : State) (t : Byte) : (s.setSt t).stack = s.stack := rfl
@[simp] theorem State.setSt_sp (s : State) (t : Byte) : (s.setSt t).sp = s.sp := rfl
@[simp] theorem State.setSt_dt (s : State) (t : Byte) : (s.setSt t).dt = s.dt := rfl
@[simp] theorem State.setSt_st (s : State) (t : Byte) : (s.setSt t).st = t := rfl
@[simp] theorem State.setSt_mem (s : State) (t : Byte) : (s.setSt t).mem = s.mem := rfl
@[simp] theorem State.setSt_halt (s : State) (t : Byte) : (s.setSt t).halt = s.halt := rfl
@[simp] theorem State.setSt_fb (s : State) (t : Byte) : (s.setSt t).fb = s.fb := rfl
@[simp] theorem State.setSt_soundOn (s : State) (t : Byte) : (s.setSt t).soundOn = s.soundOn := rfl
@[simp] theorem State.setSt_keys (s : State) (t : Byte) : (s.setSt t).keys = s.keys := rfl
@[simp] theorem State.setSt_lastKey (s : State) (t : Byte) : (s.setSt t).lastKey = s.lastKey := rfl
@[simp] theorem State.setSt_boot (s : State) (t : Byte) : (s.setSt t).boot = s.boot := rfl
@[simp] theorem State.setSt_draws (s : State) (t : Byte) : (s.setSt t).draws = s.draws := rfl
@[simp] theorem State.setSt_pending (s : State) (t : Byte) : (s.setSt t).pending = s.pending := rfl

/-! ### pushAt -/

@[simp] theorem State.pushAt_v (s : State) (k : Nat) (h : k < 16) (t : Word) : (s.pushAt k h t).v = s.v := rfl
@[simp] theorem State.pushAt_pc (s : State) (k : Nat) (h : k < 16) (t : Word) : (s.pushAt k h t).pc = s.pc := rfl
@[simp] theorem State.pushAt_i (s : State) (k : Nat) (h : k < 16) (t : Word) : (s.pushAt k h t).i = s.i := rfl
@[simp] theorem State.pushAt_stack (s : State) (k : Nat) (h : k < 16) (t : Word) : (s.pushAt k h t).stack = s.stack.set k t h := rfl
@[simp] theorem State.pushAt_sp (s : State) (k : Nat) (h : k < 16) (t : Word) : (s.pushAt k h t).sp = BitVec.ofNat 8 k := rfl
@[simp] theorem State.pushAt_dt (s : State) (k : Nat) (h : k < 16) (t : Word) : (s.pushAt k h t).dt = s.dt := rfl
@[simp] theorem State.pushAt_st (s : State) (k : Nat) (h : k < 16) (t : Word) : (s.pushAt k h t).st = s.st := rfl
@[simp] theorem State.pushAt_mem (s : State) (k : Nat) (h : k < 16) (t : Word) : (s.pushAt k h t).mem = s.mem := rfl
@[simp] theorem State.pushAt_halt (s : State) (k : Nat) (h : k < 16) (t : Word) : (s.pushAt k h t).halt = s.halt := rfl
@[simp] theorem State.pushAt_fb (s : State) (k : Nat) (h : k < 16) (t : Word) : (s.pushAt k h t).fb = s.fb := rfl
@[simp] theorem State.pushAt_soundOn (s : State) (k : Nat) (h : k < 16) (t : Word) : (s.pushAt k h t).soundOn = s.soundOn := rfl
@[simp] theorem State.pushAt_keys (s : State) (k : Nat) (h : k < 16) (t : Word) : (s.pushAt k h t).keys = s.keys := rfl
@[simp] theorem State.pushAt_lastKey (s : State) (k : Nat) (h : k < 16) (t : Word) : (s.pushAt k h t).lastKey = s.lastKey := rfl
@[simp] theorem State.pushAt_boot (s : State) (k : Nat) (h : k < 16) (t : Word) : (s.pushAt k h t).boot = s.boot := rfl
@[simp] theorem State.pushAt_draws (s : State) (k : Nat) (h : k < 16) (t : Word) : (s.pushAt k h t).draws = s.draws := rfl
@[simp] theorem State.pushAt_pending (s : State) (k : Nat) (h : k < 16) (t : Word) : (s.pushAt k h t).pending = s.pending := rfl

/-! ### writeMem -/

@[simp] theorem State.writeMem_v (s : State) (a : Nat) (w : Byte) : (s.writeMem a w).v = s.v := rfl
@[simp] theorem State.writeMem_pc (s : State) (a : Nat) (w : Byte) : (s.writeMem a w).pc = s.pc := rfl
@[simp] theorem State.writeMem_i (s : State) (a : Nat) (w : Byte) : (s.writeMem a w).i = s.i := rfl
@[simp] theorem State.writeMem_stack (s : State) (a : Nat) (w : Byte) : (s.writeMem a w).stack = s.stack := rfl
@[simp] theorem State.writeMem_sp (s : State) (a : Nat) (w : Byte) : (s.writeMem a w).sp = s.sp := rfl
@[simp] theorem State.writeMem_dt (s : State) (a : Nat) (w : Byte) : (s.writeMem a w).dt = s.dt := rfl
@[simp] theorem State.writeMem_st (s : State) (a : Nat) (w : Byte) : (s.writeMem a w).st = s.st := rfl
@[simp] theorem State.writeMem_mem (s : State) (a : Nat) (w : Byte) : (s.writeMem a w).mem = Memory.write s.mem a w := rfl
@[simp] theorem State.writeMem_halt (s : State) (a : Nat) (w : Byte) : (s.writeMem a w).halt = s.halt := rfl
@[simp] theorem State.writeMem_fb (s : State) (a : Nat) (w : Byte) : (s.writeMem a w).fb = s.fb := rfl
@[simp] theorem State.writeMem_soundOn (s : State) (a : Nat) (w : Byte) : (s.writeMem a w).soundOn = s.soundOn := rfl
@[simp] theorem State.writeMem_keys (s : State) (a : Nat) (w : Byte) : (s.writeMem a w).keys = s.keys := rfl
@[simp] theorem State.writeMem_lastKey (s : State) (a : Nat) (w : Byte) : (s.writeMem a w).lastKey = s.lastKey := rfl
@[simp] theorem State.writeMem_boot (s : State) (a : Nat) (w : Byte) : (s.writeMem a w).boot = s.boot := rfl
@[simp] theorem State.writeMem_draws (s : State) (a : Nat) (w : Byte) : (s.writeMem a w).draws = s.draws := rfl
@[simp] theorem State.writeMem_pending (s : State) (a : Nat) (w : Byte) : (s.writeMem a w).pending = s.pending := rfl

/-! ### setPixel -/

@[simp] theorem State.setPixel_v (s : State) (x : Fin 64) (y : Fin 32) (b : Bool) : (s.setPixel x y b).v = s.v := rfl
@[simp] theorem State.setPixel_pc (s : State) (x : Fin 64) (y : Fin 32) (b : Bool) : (s.setPixel x y b).pc = s.pc := rfl
@[simp] theorem State.setPixel_i (s : State) (x : Fin 64) (y : Fin 32) (b : Bool) : (s.setPixel x y b).i = s.i := rfl
@[simp] theorem State.setPixel_stack (s : State) (x : Fin 64) (y : Fin 32) (b : Bool) : (s.setPixel x y b).stack = s.stack := rfl
@[simp] theorem State.setPixel_sp (s : State) (x : Fin 64) (y : Fin 32) (b : Bool) : (s.setPixel x y b).sp = s.sp := rfl
@[simp] theorem State.setPixel_dt (s : State) (x : Fin 64) (y : Fin 32) (b : Bool) : (s.setPixel x y b).dt = s.dt := rfl
@[simp] theorem State.setPixel_st (s : State) (x : Fin 64) (y : Fin 32) (b : Bool) : (s.setPixel x y b).st = s.st := rfl
@[simp] theorem State.setPixel_mem (s : State) (x : Fin 64) (y : Fin 32) (b : Bool) : (s.setPixel x y b).mem = s.mem := rfl
@[simp] theorem State.setPixel_halt (s : State) (x : Fin 64) (y : Fin 32) (b : Bool) : (s.setPixel x y b).halt = s.halt := rfl
@[simp] theorem State.setPixel_soundOn (s : State) (x : Fin 64) (y : Fin 32) (b : Bool) : (s.setPixel x y b).soundOn = s.soundOn := rfl
@[simp] theorem State.setPixel_keys (s : State) (x : Fin 64) (y : Fin 32) (b : Bool) : (s.setPixel x y b).keys = s.keys := rfl
@[simp] theorem State.setPixel_lastKey (s : State) (x : Fin 64) (y : Fin 32) (b : Bool) : (s.setPixel x y b).lastKey = s.lastKey := rfl
@[simp] theorem State.setPixel_boot (s : State) (x : Fin 64) (y : Fin 32) (b : Bool) : (s.setPixel x y b).boot = s.boot := rfl
@[simp] theorem State.setPixel_draws (s : State) (x : Fin 64) (y : Fin 32) (b : Bool) : (s.setPixel x y b).draws = s.draws := rfl
@[simp] theorem State.setPixel_pending (s : State) (x : Fin 64) (y : Fin 32) (b : Bool) : (s.setPixel x y b).pending = s.pending := rfl

/-! ### plot -/

@[simp] theorem State.plot_v (s : State) (x : Fin 64) (y : Fin 32) (b : Bool) : (s.plot x y b).v = s.v := rfl
@[simp] theorem State.plot_pc (s : State) (x : Fin 64) (y : Fin 32) (b : Bool) : (s.plot x y b).pc = s.pc := rfl
@[simp] theorem State.plot_i (s : State) (x : Fin 64) (y : Fin 32) (b : Bool) : (s.plot x y b).i = s.i := rfl
@[simp] theorem State.plot_stack (s : State) (x : Fin 64) (y : Fin 32) (b : Bool) : (s.plot x y b).stack = s.stack := rfl
@[simp] theorem State.plot_sp (s : State) (x : Fin 64) (y : Fin 32) (b : Bool) : (s.plot x y b).sp = s.sp := rfl
@[simp] theorem State.plot_dt (s : State) (x : Fin 64) (y : Fin 32) (b : Bool) : (s.plot x y b).dt = s.dt := rfl
@[simp] theorem State.plot_st (s : State) (x : Fin 64) (y : Fin 32) (b : Bool) : (s.plot x y b).st = s.st := rfl
@[simp] theorem State.plot_mem (s : State) (x : Fin 64) (y : Fin 32) (b : Bool) : (s.plot x y b).mem = s.mem := rfl
@[simp] theorem State.plot_halt (s : State) (x : Fin 64) (y : Fin 32) (b : Bool) : (s.plot x y b).halt = s.halt := rfl
@[simp] theorem State.plot_soundOn (s : State) (x : Fin 64) (y : Fin 32) (b : Bool) : (s.plot x y b).soundOn = s.soundOn := rfl
@[simp] theorem State.plot_keys (s : State) (x : Fin 64) (y : Fin 32) (b : Bool) : (s.plot x y b).keys = s.keys := rfl
@[simp] theorem State.plot_lastKey (s : State) (x : Fin 64) (y : Fin 32) (b : Bool) : (s.plot x y b).lastKey = s.lastKey := rfl
@[simp] theorem State.plot_boot (s : State) (x : Fin 64) (y : Fin 32) (b : Bool) : (s.plot x y b).boot = s.boot := rfl
@[simp] theorem State.plot_draws (s : State) (x : Fin 64) (y : Fin 32) (b : Bool) : (s.plot x y b).draws = s.draws := rfl
@[simp] theorem State.plot_pending (s : State) (x : Fin 64) (y : Fin 32) (b : Bool) : (s.plot x y b).pending = s.pending := rfl

/-! ### clearScreen -/

@[simp] theorem State.clearScreen_v (s : State) : s.clearScreen.v = s.v := rfl
@[simp] theorem State.clearScreen_pc (s : State) : s.clearScreen.pc = s.pc := rfl
@[simp] theorem State.clearScreen_i (s : State) : s.clearScreen.i = s.i := rfl
@[simp] theorem State.clearScreen_stack (s : State) : s.clearScreen.stack = s.stack := rfl
@[simp] theorem State.clearScreen_sp (s : State) : s.clearScreen.sp = s.sp := rfl
@[simp] theorem State.clearScreen_dt (s : State) : s.clearScreen.dt = s.dt := rfl
@[simp] theorem State.clearScreen_st (s : State) : s.clearScreen.st = s.st := rfl
@[simp] theorem State.clearScreen_mem (s : State) : s.clearScreen.mem = s.mem := rfl
@[simp] theorem State.clearScreen_halt (s : State) : s.clearScreen.halt = s.halt := rfl
@[simp] theorem State.clearScreen_soundOn (s : State) : s.clearScreen.soundOn = s.soundOn := rfl
@[simp] theorem State.clearScreen_keys (s : State) : s.clearScreen.keys = s.keys := rfl
@[simp] theorem State.clearScreen_lastKey (s : State) : s.clearScreen.lastKey = s.lastKey := rfl
@[simp] theorem State.clearScreen_boot (s : State) : s.clearScreen.boot = s.boot := rfl
@[simp] theorem State.clearScreen_draws (s : State) : s.clearScreen.draws = s.draws := rfl
@[simp] theorem State.clearScreen_pending (s : State) : s.clearScreen.pending = s.pending := rfl

/-! ### startSound -/

@[simp] theorem State.startSound_v (s : State) : s.startSound.v = s.v := rfl
@[simp] theorem State.startSound_pc (s : State) : s.startSound.pc = s.pc := rfl
@[simp] theorem State.startSound_i (s : State) : s.startSound.i = s.i := rfl
@[simp] theorem State.startSound_stack (s : State) : s.startSound.stack = s.stack := rfl
@[simp] theorem State.startSound_sp (s : State) : s.startSound.sp = s.sp := rfl
@[simp] theorem State.startSound_dt (s : State) : s.startSound.dt = s.dt := rfl
@[simp] theorem State.startSound_st (s : State) : s.startSound.st = s.st := rfl
@[simp] theorem State.startSound_mem (s : State) : s.startSound.mem = s.mem := rfl
@[simp] theorem State.startSound_halt (s : State) : s.startSound.halt = s.halt := rfl
@[simp] theorem State.startSound_fb (s : State) : s.startSound.fb = s.fb := rfl
@[simp] theorem State.startSound_soundOn (s : State) : s.startSound.soundOn = true := rfl
@[simp] theorem State.startSound_keys (s : State) : s.startSound.keys = s.keys := rfl
@[simp] theorem State.startSound_lastKey (s : State) : s.startSound.lastKey = s.lastKey := rfl
@[simp] theorem State.startSound_boot (s : State) : s.startSound.boot = s.boot := rfl
@[simp] theorem State.startSound_draws (s : State) : s.startSound.draws = s.draws := rfl
@[simp] theorem State.startSound_pending (s : State) : s.startSound.pending = s.pending := rfl

/-! ### stopSound -/

@[simp] theorem State.stopSound_v (s : State) : s.stopSound.v = s.v := rfl
@[simp] theorem State.stopSound_pc (s : State) : s.stopSound.pc = s.pc := rfl
@[simp] theorem State.stopSound_i (s : State) : s.stopSound.i = s.i := rfl
@[simp] theorem State.stopSound_stack (s : State) : s.stopSound.stack = s.stack := rfl
@[simp] theorem State.stopSound_sp (s : State) : s.stopSound.sp = s.sp := rfl
@[simp] theorem State.stopSound_dt (s : State) : s.stopSound.dt = s.dt := rfl
@[simp] theorem State.stopSound_st (s : State) : s.stopSound.st = s.st := rfl
@[simp] theorem State.stopSound_mem (s : State) : s.stopSound.mem = s.mem := rfl
@[simp] theorem State.stopSound_halt (s : State) : s.stopSound.halt = s.halt := rfl
@[simp] theorem State.stopSound_fb (s : State) : s.stopSound.fb = s.fb := rfl
@[simp] theorem State.stopSound_soundOn (s : State) : s.stopSound.soundOn = false := rfl
@[simp] theorem State.stopSound_keys (s : State) : s.stopSound.keys = s.keys := rfl
@[simp] theorem State.stopSound_lastKey (s : State) : s.stopSound.lastKey = s.lastKey := rfl
@[simp] theorem State.stopSound_boot (s : State) : s.stopSound.boot = s.boot := rfl
@[simp] theorem State.stopSound_draws (s : State) : s.stopSound.draws = s.draws := rfl
@[simp] theorem State.stopSound_pending (s : State) : s.stopSound.pending = s.pending := rfl

/-! ### consumeKey -/

@[simp] theorem State.consumeKey_v (s : State) : s.consumeKey.v = s.v := rfl
@[simp] theorem State.consumeKey_pc (s : State) : s.consumeKey.pc = s.pc := rfl
@[simp] theorem State.consumeKey_i (s : State) : s.consumeKey.i = s.i := rfl
@[simp] theorem State.consumeKey_stack (s : State) : s.consumeKey.stack = s.stack := rfl
@[simp] theorem State.consumeKey_sp (s : State) : s.consumeKey.sp = s.sp := rfl
@[simp] theorem State.consumeKey_dt (s : State) : s.consumeKey.dt = s.dt := rfl
@[simp] theorem State.consumeKey_st (s : State) : s.consumeKey.st = s.st := rfl
@[simp] theorem State.consumeKey_mem (s : State) : s.consumeKey.mem = s.mem := rfl
@[simp] theorem State.consumeKey_halt (s : State) : s.consumeKey.halt = s.halt := rfl
@[simp] theorem State.consumeKey_fb (s : State) : s.consumeKey.fb = s.fb := rfl
@[simp] theorem State.consumeKey_soundOn (s : State) : s.consumeKey.soundOn = s.soundOn := rfl
@[simp] theorem State.consumeKey_keys (s : State) : s.consumeKey.keys = s.keys := rfl
@[simp] theorem State.consumeKey_lastKey (s : State) : s.consumeKey.lastKey = Config.noneKey := rfl
@[simp] theorem State.consumeKey_boot (s : State) : s.consumeKey.boot = s.boot := rfl
@[simp] theorem State.consumeKey_draws (s : State) : s.consumeKey.draws = s.draws := rfl
@[simp] theorem State.consumeKey_pending (s : State) : s.consumeKey.pending = s.pending := rfl

end Sys2Proof.Machine
end

