-- ==== Sys2Proof/Laws/Access.lean ====
section
/-! SUPPORT. What the accessors `reg`, `readMem` and `pixel` give after each update. -/

namespace Sys2Proof.Machine

/-! ### Updates that leave an accessor alone -/

@[simp] theorem State.setPc_reg (s : State) (t : Word) (q : Reg) : (s.setPc t).reg q = s.reg q := rfl
@[simp] theorem State.advance_reg (s : State) (q : Reg) : s.advance.reg q = s.reg q := rfl
@[simp] theorem State.skipIf_reg (s : State) (c : Bool) (q : Reg) : (s.skipIf c).reg q = s.reg q := rfl
@[simp] theorem State.setI_reg (s : State) (t : Word) (q : Reg) : (s.setI t).reg q = s.reg q := rfl
@[simp] theorem State.setDt_reg (s : State) (t : Byte) (q : Reg) : (s.setDt t).reg q = s.reg q := rfl
@[simp] theorem State.setSt_reg (s : State) (t : Byte) (q : Reg) : (s.setSt t).reg q = s.reg q := rfl
@[simp] theorem State.pushAt_reg (s : State) (k : Nat) (h : k < 16) (t : Word) (q : Reg) : (s.pushAt k h t).reg q = s.reg q := rfl
@[simp] theorem State.writeMem_reg (s : State) (a : Nat) (w : Byte) (q : Reg) : (s.writeMem a w).reg q = s.reg q := rfl
@[simp] theorem State.setPixel_reg (s : State) (x : Fin 64) (y : Fin 32) (b : Bool) (q : Reg) : (s.setPixel x y b).reg q = s.reg q := rfl
@[simp] theorem State.plot_reg (s : State) (x : Fin 64) (y : Fin 32) (b : Bool) (q : Reg) : (s.plot x y b).reg q = s.reg q := rfl
@[simp] theorem State.clearScreen_reg (s : State) (q : Reg) : s.clearScreen.reg q = s.reg q := rfl
@[simp] theorem State.startSound_reg (s : State) (q : Reg) : s.startSound.reg q = s.reg q := rfl
@[simp] theorem State.stopSound_reg (s : State) (q : Reg) : s.stopSound.reg q = s.reg q := rfl
@[simp] theorem State.consumeKey_reg (s : State) (q : Reg) : s.consumeKey.reg q = s.reg q := rfl

@[simp] theorem State.setReg_readMem (s : State) (r : Reg) (w : Byte) (c : Nat) : (s.setReg r w).readMem c = s.readMem c := rfl
@[simp] theorem State.setPc_readMem (s : State) (t : Word) (c : Nat) : (s.setPc t).readMem c = s.readMem c := rfl
@[simp] theorem State.advance_readMem (s : State) (c : Nat) : s.advance.readMem c = s.readMem c := rfl
@[simp] theorem State.skipIf_readMem (s : State) (c : Bool) (d : Nat) : (s.skipIf c).readMem d = s.readMem d := rfl
@[simp] theorem State.setI_readMem (s : State) (t : Word) (c : Nat) : (s.setI t).readMem c = s.readMem c := rfl
@[simp] theorem State.setDt_readMem (s : State) (t : Byte) (c : Nat) : (s.setDt t).readMem c = s.readMem c := rfl
@[simp] theorem State.setSt_readMem (s : State) (t : Byte) (c : Nat) : (s.setSt t).readMem c = s.readMem c := rfl
@[simp] theorem State.pushAt_readMem (s : State) (k : Nat) (h : k < 16) (t : Word) (c : Nat) : (s.pushAt k h t).readMem c = s.readMem c := rfl
@[simp] theorem State.setPixel_readMem (s : State) (x : Fin 64) (y : Fin 32) (b : Bool) (c : Nat) : (s.setPixel x y b).readMem c = s.readMem c := rfl
@[simp] theorem State.plot_readMem (s : State) (x : Fin 64) (y : Fin 32) (b : Bool) (c : Nat) : (s.plot x y b).readMem c = s.readMem c := rfl
@[simp] theorem State.clearScreen_readMem (s : State) (c : Nat) : s.clearScreen.readMem c = s.readMem c := rfl
@[simp] theorem State.startSound_readMem (s : State) (c : Nat) : s.startSound.readMem c = s.readMem c := rfl
@[simp] theorem State.stopSound_readMem (s : State) (c : Nat) : s.stopSound.readMem c = s.readMem c := rfl
@[simp] theorem State.consumeKey_readMem (s : State) (c : Nat) : s.consumeKey.readMem c = s.readMem c := rfl

@[simp] theorem State.setReg_pixel (s : State) (r : Reg) (w : Byte) (px : Fin 64) (py : Fin 32) : (s.setReg r w).pixel px py = s.pixel px py := rfl
@[simp] theorem State.setPc_pixel (s : State) (t : Word) (px : Fin 64) (py : Fin 32) : (s.setPc t).pixel px py = s.pixel px py := rfl
@[simp] theorem State.advance_pixel (s : State) (px : Fin 64) (py : Fin 32) : s.advance.pixel px py = s.pixel px py := rfl
@[simp] theorem State.skipIf_pixel (s : State) (c : Bool) (px : Fin 64) (py : Fin 32) : (s.skipIf c).pixel px py = s.pixel px py := rfl
@[simp] theorem State.setI_pixel (s : State) (t : Word) (px : Fin 64) (py : Fin 32) : (s.setI t).pixel px py = s.pixel px py := rfl
@[simp] theorem State.setDt_pixel (s : State) (t : Byte) (px : Fin 64) (py : Fin 32) : (s.setDt t).pixel px py = s.pixel px py := rfl
@[simp] theorem State.setSt_pixel (s : State) (t : Byte) (px : Fin 64) (py : Fin 32) : (s.setSt t).pixel px py = s.pixel px py := rfl
@[simp] theorem State.pushAt_pixel (s : State) (k : Nat) (h : k < 16) (t : Word) (px : Fin 64) (py : Fin 32) : (s.pushAt k h t).pixel px py = s.pixel px py := rfl
@[simp] theorem State.writeMem_pixel (s : State) (a : Nat) (w : Byte) (px : Fin 64) (py : Fin 32) : (s.writeMem a w).pixel px py = s.pixel px py := rfl
@[simp] theorem State.startSound_pixel (s : State) (px : Fin 64) (py : Fin 32) : s.startSound.pixel px py = s.pixel px py := rfl
@[simp] theorem State.stopSound_pixel (s : State) (px : Fin 64) (py : Fin 32) : s.stopSound.pixel px py = s.pixel px py := rfl
@[simp] theorem State.consumeKey_pixel (s : State) (px : Fin 64) (py : Fin 32) : s.consumeKey.pixel px py = s.pixel px py := rfl
/-! ### Registers -/

/-- Read after write of a register. -/
@[simp] theorem State.setReg_reg (s : State) (r : Reg) (w : Byte) (q : Reg) :
    (s.setReg r w).reg q = if q = r then w else s.reg q := by
  have hrq : r.toNat = q.toNat ↔ q = r := by rw [eq_comm, BitVec.toNat_inj]
  simp [State.reg, State.setReg, Vector.getElem_set, hrq]

/-- Two register files that agree at every index are equal. -/
theorem v_eq_of_reg {s t : State} (h : ∀ r, s.reg r = t.reg r) : s.v = t.v := by
  refine Vector.ext fun k hk => ?_
  have h' := h (BitVec.ofNat 4 k)
  have hk' : (BitVec.ofNat 4 k).toNat = k := by simp; omega
  simpa only [State.reg, hk'] using h'

/-- Writing a register its own value changes nothing. -/
theorem State.setReg_self (s : State) (r : Reg) : s.setReg r (s.reg r) = s := by
  have h : (s.setReg r (s.reg r)).v = s.v := v_eq_of_reg fun q => by
    rw [setReg_reg]; split <;> simp_all
  cases s
  simpa [State.setReg] using h

/-- A second write of a register replaces the first. -/
theorem State.setReg_setReg (s : State) (r : Reg) (w w' : Byte) : (s.setReg r w).setReg r w' = s.setReg r w' := by
  simp [State.setReg]

/-- The write as the update of one field. -/
theorem State.setReg_eq (s : State) (r : Reg) (w : Byte) : s.setReg r w = { s with v := s.v.set r.toNat w r.isLt } := rfl

/-- An operand other than VF reads as before the instruction. -/
@[simp] theorem operandNow_of_ne {r : Reg} (h : r ≠ vf) (ord : AliasOrder) (w : Byte) (t : State) :
    operandNow ord r w t = w := by simp [operandNow, h]

/-- Under `snapshot` every operand reads as before the instruction. -/
@[simp] theorem operandNow_snapshot (r : Reg) (w : Byte) (t : State) : operandNow .snapshot r w t = w := by
  simp [operandNow]

/-- Under `sequential` VF reads as it is now. -/
theorem operandNow_vf_sequential (w : Byte) (t : State) : operandNow .sequential vf w t = t.reg vf := by
  simp [operandNow]

/-- Under `sequential` an operand is simply read again: no register but VF can differ from `before`. -/
theorem operandNow_sequential {r : Reg} {w : Byte} {t : State} (h : r ≠ vf → t.reg r = w) :
    operandNow .sequential r w t = t.reg r := by
  by_cases hr : r = vf <;> simp_all [operandNow]

/-! ### Pixels -/

/-- Read after write of a pixel. -/
@[simp] theorem State.setPixel_pixel (s : State) (x px : Fin 64) (y py : Fin 32) (b : Bool) :
    (s.setPixel x y b).pixel px py = if px = x ∧ py = y then b else s.pixel px py := by
  simp only [State.pixel, State.setPixel, Vector.getElem_set, Fin.ext_iff]
  by_cases hy : y.val = py.val
  · by_cases hx : x.val = px.val
    · simp [hy, hx]
    · have hx' : ¬ px.val = x.val := fun h => hx h.symm
      simp [hy, hx, hx']
  · have hy' : ¬ py.val = y.val := fun h => hy h.symm
    simp [hy, hy']

/-- `Plot` XORs one pixel. -/
@[simp] theorem State.plot_pixel (s : State) (x px : Fin 64) (y py : Fin 32) (b : Bool) :
    (s.plot x y b).pixel px py = if px = x ∧ py = y then (s.pixel px py ^^ b) else s.pixel px py := by
  rw [State.plot, setPixel_pixel]
  split
  · next h => rw [h.1, h.2]
  · rfl

/-- `Clear` clears every pixel. -/
@[simp] theorem State.clearScreen_pixel (s : State) (px : Fin 64) (py : Fin 32) :
    s.clearScreen.pixel px py = false := by
  simp [State.pixel, State.clearScreen]

/-- Two framebuffers that agree at every pixel are equal. -/
theorem fb_eq_of_pixel {s t : State} (h : ∀ px py, s.pixel px py = t.pixel px py) : s.fb = t.fb :=
  Vector.ext fun y hy => Vector.ext fun x hx => h ⟨x, hx⟩ ⟨y, hy⟩

end Sys2Proof.Machine
end

