-- ==== Sys2Proof/Laws/Decode.lean ====
section
/-! SUPPORT. The decoder and the encoder: matching as the spec's formula, decoding from the first hit, opcodes as
numbers, and bytes. -/

namespace Sys2Proof

/-- Matching is the formula of R62 with the entry's mask under `MASK_5_9`, for an entry whose mask holds 0xF00F where it
is open. -/
theorem Entry.hits_iff {m : Mask59} {e : Entry} (h : e.open59 = true → e.mask = 0xF00F ∧ e.pattern &&& 0x0FFF = 0)
    (op : Word) : e.hits m op = true ↔ op &&& e.maskFor m = e.pattern := by
  rcases e with ⟨kind, p, mask, o, rules, read⟩
  cases o with
  | false => simp [Entry.hits, Entry.maskFor]
  | true =>
    obtain ⟨hm, hp⟩ := h rfl
    simp only at hm hp
    subst hm
    cases m with
    | fine => simp [Entry.hits, Entry.maskFor, Mask59.word]
    | coarse =>
      have himp : op &&& 0xF00F = p → op &&& 0xF000 = p := by
        intro hq
        have h1 : op &&& 0xF000 = (op &&& 0xF00F) &&& 0xF000 := by rw [BitVec.and_assoc]; rfl
        have h2 : p &&& 0xF000 = p := by
          have h3 : p = (p &&& 0xF000) ||| (p &&& 0x0FFF) := by
            rw [← BitVec.and_or_distrib_left]
            show p = p &&& BitVec.allOnes 16
            rw [BitVec.and_allOnes]
          rw [hp] at h3
          simpa using h3.symm
        rw [h1, hq, h2]
      simp only [Entry.hits, Entry.maskFor, Mask59.word, Bool.or_eq_true, beq_iff_eq, Bool.true_and, Bool.and_eq_true,
        if_true, and_true]
      exact ⟨fun hq => hq.elim himp id, .inr⟩

/-- Every entry of the catalog meets the condition of `Entry.hits_iff`. -/
theorem catalog_open59 : ∀ e ∈ catalog, e.open59 = true → e.mask = 0xF00F ∧ e.pattern &&& 0x0FFF = 0 := by
  simp [catalog, catalogA, catalogB, catalogC, catalogD]

/-- The catalog has 34 entries (R68). -/
theorem catalog_length : catalog.length = 34 := rfl

/-- The opcode of a top nibble and an address, as a number. -/
theorem encAddr_toNat (t : Nibble) (a : Addr) : (encAddr t a).toNat = t.toNat * 0x1000 + a.toNat := by
  simp only [encAddr, BitVec.toNat_append]
  rw [← Nat.shiftLeft_add_eq_or_of_lt a.isLt, Nat.shiftLeft_eq]

/-- The opcode of a top nibble, a register index and a byte, as a number. -/
theorem encXKK_toNat (t : Nibble) (x : Reg) (kk : Byte) :
    (encXKK t x kk).toNat = t.toNat * 0x1000 + x.toNat * 0x100 + kk.toNat := by
  simp only [encXKK, BitVec.toNat_append]
  rw [← Nat.shiftLeft_add_eq_or_of_lt kk.isLt, ← Nat.shiftLeft_add_eq_or_of_lt, Nat.shiftLeft_eq, Nat.shiftLeft_eq]
  · omega
  · have := x.isLt; have := kk.isLt; simp only [Nat.shiftLeft_eq]; omega

/-- The opcode of four nibbles, as a number. -/
theorem encXYN_toNat (t : Nibble) (x y n : Nibble) :
    (encXYN t x y n).toNat = t.toNat * 0x1000 + x.toNat * 0x100 + y.toNat * 0x10 + n.toNat := by
  have hx := x.isLt; have hy := y.isLt; have hn := n.isLt
  have hyn : (y ++ n).toNat = y.toNat * 0x10 + n.toNat := by
    rw [BitVec.toNat_append, ← Nat.shiftLeft_add_eq_or_of_lt hn, Nat.shiftLeft_eq]
  have hxyn : (x ++ (y ++ n)).toNat = x.toNat * 0x100 + (y ++ n).toNat := by
    rw [BitVec.toNat_append, ← Nat.shiftLeft_add_eq_or_of_lt (y ++ n).isLt, Nat.shiftLeft_eq]
  rw [encXYN, BitVec.toNat_append, ← Nat.shiftLeft_add_eq_or_of_lt (x ++ (y ++ n)).isLt, Nat.shiftLeft_eq, hxyn, hyn]
  omega

/-- Two bytes make the word they are cut from. -/
@[simp] theorem wordOfBytes_bytesOfWord (op : Word) : wordOfBytes (bytesOfWord op).1 (bytesOfWord op).2 = op := by
  apply BitVec.eq_of_toNat_eq
  simp only [wordOfBytes, bytesOfWord, BitVec.toNat_append, BitVec.extractLsb'_toNat]
  rw [← Nat.shiftLeft_add_eq_or_of_lt (Nat.mod_lt _ (by decide)), Nat.shiftLeft_eq]
  have := op.isLt
  simp only [Nat.shiftRight_eq_div_pow]
  omega

/-- The word of two bytes, as a number: the first byte is the high one. -/
theorem wordOfBytes_toNat (hi lo : Byte) : (wordOfBytes hi lo).toNat = hi.toNat * 0x100 + lo.toNat := by
  simp only [wordOfBytes, BitVec.toNat_append]
  rw [← Nat.shiftLeft_add_eq_or_of_lt lo.isLt, Nat.shiftLeft_eq]

/-- What decoding two bytes answers. -/
theorem decode_two (hi lo : Byte) (rest : List Byte) :
    decode (hi :: lo :: rest) =
      match decodeWord (wordOfBytes hi lo) with
      | some i => .ok (i, rest)
      | none => .error (.noEntry (wordOfBytes hi lo)) := rfl

/-! ### Opcodes under the masks, and their fields -/

/-- An address opcode under mask 0xF000. -/
theorem encAddr_and (t : Nibble) (a : Addr) : encAddr t a &&& 0xF000 = encAddr t 0 := by
  rw [show (0xF000 : Word) = 0xF#4 ++ 0x000#12 from rfl, encAddr, BitVec.and_append, encAddr]
  congr 1
  · exact BitVec.and_allOnes
  · exact BitVec.and_zero

/-- A register and byte opcode under mask 0xF000. -/
theorem encXKK_and_top (t : Nibble) (x : Reg) (kk : Byte) : encXKK t x kk &&& 0xF000 = encXKK t 0 0 := by
  rw [show (0xF000 : Word) = 0xF#4 ++ (0x0#4 ++ 0x00#8) from rfl, encXKK, BitVec.and_append, BitVec.and_append, encXKK]
  congr 1
  · exact BitVec.and_allOnes
  · exact congrArg₂ _ BitVec.and_zero BitVec.and_zero

/-- A register and byte opcode under mask 0xF0FF. -/
theorem encXKK_and_low (t : Nibble) (x : Reg) (kk : Byte) : encXKK t x kk &&& 0xF0FF = encXKK t 0 kk := by
  rw [show (0xF0FF : Word) = 0xF#4 ++ (0x0#4 ++ 0xFF#8) from rfl, encXKK, BitVec.and_append, BitVec.and_append, encXKK]
  congr 1
  · exact BitVec.and_allOnes
  · exact congrArg₂ _ BitVec.and_zero BitVec.and_allOnes

/-- A three-nibble opcode under mask 0xF000. -/
theorem encXYN_and_top (t : Nibble) (x y n : Nibble) : encXYN t x y n &&& 0xF000 = encXYN t 0 0 0 := by
  rw [show (0xF000 : Word) = 0xF#4 ++ (0x0#4 ++ (0x0#4 ++ 0x0#4)) from rfl, encXYN, BitVec.and_append, BitVec.and_append,
    BitVec.and_append, encXYN]
  congr 1
  · exact BitVec.and_allOnes
  · exact congrArg₂ _ BitVec.and_zero (congrArg₂ _ BitVec.and_zero BitVec.and_zero)

/-- A three-nibble opcode under mask 0xF00F. -/
theorem encXYN_and_low (t : Nibble) (x y n : Nibble) : encXYN t x y n &&& 0xF00F = encXYN t 0 0 n := by
  rw [show (0xF00F : Word) = 0xF#4 ++ (0x0#4 ++ (0x0#4 ++ 0xF#4)) from rfl, encXYN, BitVec.and_append, BitVec.and_append,
    BitVec.and_append, encXYN]
  congr 1
  · exact BitVec.and_allOnes
  · exact congrArg₂ _ BitVec.and_zero (congrArg₂ _ BitVec.and_zero BitVec.and_allOnes)

@[simp] theorem fieldAddr_encAddr (t : Nibble) (a : Addr) : fieldAddr (encAddr t a) = a :=
  BitVec.extractLsb'_append_eq_right

@[simp] theorem fieldKK_encXKK (t : Nibble) (x : Reg) (kk : Byte) : fieldKK (encXKK t x kk) = kk := by
  rw [fieldKK, encXKK, BitVec.extractLsb'_append_eq_of_add_le (by decide)]
  exact BitVec.extractLsb'_append_eq_right

@[simp] theorem fieldX_encXKK (t : Nibble) (x : Reg) (kk : Byte) : fieldX (encXKK t x kk) = x := by
  rw [fieldX, encXKK, BitVec.extractLsb'_append_eq_of_add_le (by decide)]
  exact BitVec.extractLsb'_append_eq_left

@[simp] theorem fieldX_encXYN (t : Nibble) (x y n : Nibble) : fieldX (encXYN t x y n) = x := by
  rw [fieldX, encXYN, BitVec.extractLsb'_append_eq_of_add_le (by decide)]
  exact BitVec.extractLsb'_append_eq_left

@[simp] theorem fieldY_encXYN (t : Nibble) (x y n : Nibble) : fieldY (encXYN t x y n) = y := by
  rw [fieldY, encXYN, BitVec.extractLsb'_append_eq_of_add_le (by decide),
    BitVec.extractLsb'_append_eq_of_add_le (by decide)]
  exact BitVec.extractLsb'_append_eq_left

@[simp] theorem fieldN_encXYN (t : Nibble) (x y n : Nibble) : fieldN (encXYN t x y n) = n := by
  rw [fieldN, encXYN, BitVec.extractLsb'_append_eq_of_add_le (by decide),
    BitVec.extractLsb'_append_eq_of_add_le (by decide)]
  exact BitVec.extractLsb'_append_eq_right

/-- The top nibble of an opcode, bits 15:12 (spec/30_encoding.md R61). -/
def fieldTop (op : Word) : Nibble := op.extractLsb' 12 4

/-- An opcode is its four nibbles. -/
theorem encXYN_fields (op : Word) : encXYN (fieldTop op) (fieldX op) (fieldY op) (fieldN op) = op := by
  apply BitVec.eq_of_toNat_eq
  have := op.isLt
  simp only [encXYN_toNat, fieldTop, fieldX, fieldY, fieldN, BitVec.extractLsb'_toNat, Nat.shiftRight_eq_div_pow]
  omega

/-- An opcode is its top nibble, its `x` and its `kk`. -/
theorem encXKK_fields (op : Word) : encXKK (fieldTop op) (fieldX op) (fieldKK op) = op := by
  apply BitVec.eq_of_toNat_eq
  have := op.isLt
  simp only [encXKK_toNat, fieldTop, fieldX, fieldKK, BitVec.extractLsb'_toNat, Nat.shiftRight_eq_div_pow]
  omega

/-- An opcode is its top nibble and its address field. -/
theorem encAddr_fields (op : Word) : encAddr (fieldTop op) (fieldAddr op) = op := by
  apply BitVec.eq_of_toNat_eq
  have := op.isLt
  simp only [encAddr_toNat, fieldTop, fieldAddr, BitVec.extractLsb'_toNat, Nat.shiftRight_eq_div_pow]
  omega

/-- The three ways of writing an opcode agree. -/
theorem encXKK_eq_encXYN (t x : Nibble) (kk : Byte) :
    encXKK t x kk = encXYN t x (kk.extractLsb' 4 4) (kk.extractLsb' 0 4) := by
  apply BitVec.eq_of_toNat_eq
  have := kk.isLt
  simp only [encXKK_toNat, encXYN_toNat, BitVec.extractLsb'_toNat, Nat.shiftRight_eq_div_pow]
  omega

end Sys2Proof
end

