-- ==== Sys2Proof/Laws/Memory.lean ====
section
/-! SUPPORT. Memory: every operation keeps the canonical form, a read after a write gives the value written, and a write
leaves every other byte alone (spec/20_memory.md R44, R45). -/

namespace Sys2Proof.Machine

/-- A lower starting address keeps the canonical form. -/
theorem Memory.wfFrom_mono {lo hi : Nat} (h : lo ≤ hi) : ∀ {m : Memory}, Memory.wfFrom hi m = true → Memory.wfFrom lo m = true
  | [], _ => rfl
  | (a, b) :: rest, hm => by
    simp only [Memory.wfFrom, Bool.and_eq_true, decide_eq_true_eq] at hm ⊢
    exact ⟨⟨⟨by omega, hm.1.1.2⟩, hm.1.2⟩, hm.2⟩

/-- Below its first address a canonical memory reads 0. -/
theorem Memory.read_below : ∀ {m : Memory} {lo c : Nat}, Memory.wfFrom lo m = true → c < lo → Memory.read m c = 0
  | [], _, _, _, _ => rfl
  | (a, b) :: rest, lo, c, hm, hc => by
    simp only [Memory.wfFrom, Bool.and_eq_true, decide_eq_true_eq] at hm
    rw [Memory.read, if_neg (by omega)]
    exact Memory.read_below hm.2 (by omega)

/-- Putting a byte leaves every other address alone. -/
theorem Memory.read_put_ne {c d : Nat} (h : d ≠ c) (w : Byte) : ∀ m : Memory, Memory.read (m.put c w) d = Memory.read m d
  | [] => by by_cases hw : w = 0#8 <;> simp [Memory.put, Memory.read, hw, h]
  | (a, b) :: rest => by
    have ih := Memory.read_put_ne h w rest
    unfold Memory.put
    by_cases h1 : c < a
    · by_cases hw : w = 0#8 <;> simp [Memory.read, h1, hw, h]
    · by_cases h2 : c = a
      · subst h2
        by_cases hw : w = 0#8 <;> simp [Memory.read, hw, h]
      · simp [Memory.read, h1, h2, ih]

/-- Putting a byte into a canonical memory, then reading it. -/
theorem Memory.read_put_same : ∀ {m : Memory} {lo c : Nat} (w : Byte), Memory.wfFrom lo m = true →
    Memory.read (m.put c w) c = w
  | [], _, c, w, _ => by by_cases hw : w = 0#8 <;> simp [Memory.put, Memory.read, hw]
  | (a, b) :: rest, lo, c, w, hm => by
    simp only [Memory.wfFrom, Bool.and_eq_true, decide_eq_true_eq] at hm
    unfold Memory.put
    by_cases h1 : c < a
    · have h0 : Memory.read rest c = 0 := Memory.read_below hm.2 (by omega)
      have hca : ¬ c = a := by omega
      by_cases hw : w = 0#8 <;> simp [Memory.read, h1, hw, hca, h0]
    · by_cases h2 : c = a
      · subst h2
        by_cases hw : w = 0#8
        · simp [hw, Memory.read_below hm.2 (Nat.lt_succ_self c)]
        · simp [Memory.read, hw]
      · simp [Memory.read, h1, h2, Memory.read_put_same w hm.2]

/-- Putting a byte keeps the canonical form. -/
theorem Memory.wfFrom_put : ∀ {m : Memory} {lo c : Nat} (w : Byte), Memory.wfFrom lo m = true → lo ≤ c →
    c < Config.memSize → Memory.wfFrom lo (m.put c w) = true
  | [], lo, c, w, _, hlo, hc => by
    by_cases hw : w = 0#8 <;> simp [Memory.put, Memory.wfFrom, hw, hlo, hc]
  | (a, b) :: rest, lo, c, w, hm, hlo, hc => by
    have hm' := hm
    simp only [Memory.wfFrom, Bool.and_eq_true, decide_eq_true_eq, bne_iff_ne] at hm'
    obtain ⟨⟨⟨hla, ham⟩, hb⟩, hr⟩ := hm'
    have hb : ¬ b = 0#8 := hb
    unfold Memory.put
    by_cases h1 : c < a
    · by_cases hw : w = 0#8
      · simpa [h1, hw] using hm
      · have : c + 1 ≤ a := h1
        simp [Memory.wfFrom, h1, hw, hlo, hc, this, ham, hb, hr]
    · by_cases h2 : c = a
      · subst h2
        by_cases hw : w = 0#8
        · simpa [hw] using Memory.wfFrom_mono (by omega) hr
        · simp [Memory.wfFrom, hw, hlo, hc, hr]
      · have ih := Memory.wfFrom_put w hr (by omega) hc
        simp [h1, h2, Memory.wfFrom, hla, ham, hb, ih]

/-- `MemWrite` keeps the canonical form. -/
theorem Memory.wf_write {m : Memory} (h : Memory.wf m = true) (c : Nat) (w : Byte) : Memory.wf (m.write c w) = true := by
  unfold Memory.write
  split
  · next hc => exact Memory.wfFrom_put w h (Nat.zero_le c) hc
  · exact h

/-- A write leaves every other address alone. -/
theorem Memory.read_write_ne (m : Memory) {c d : Nat} (h : d ≠ c) (w : Byte) :
    Memory.read (m.write c w) d = Memory.read m d := by
  unfold Memory.write
  split
  · exact Memory.read_put_ne h w m
  · rfl

/-- A read after a write inside memory gives the value written. -/
theorem Memory.read_write_same {m : Memory} (h : Memory.wf m = true) {c : Nat} (hc : c < Config.memSize) (w : Byte) :
    Memory.read (m.write c w) c = w := by
  rw [Memory.write, if_pos hc]
  exact Memory.read_put_same w h

/-- An image that ends inside memory has the canonical form. -/
theorem Memory.wfFrom_ofImage : ∀ (image : List Byte) (a : Nat), a + image.length ≤ Config.memSize →
    Memory.wfFrom a (Memory.ofImage a image) = true
  | [], _, _ => rfl
  | b :: rest, a, h => by
    simp only [List.length_cons] at h
    have ih := Memory.wfFrom_ofImage rest (a + 1) (by omega)
    by_cases hb : b = 0#8
    · simpa [Memory.ofImage, hb] using Memory.wfFrom_mono (Nat.le_succ a) ih
    · have ha : a < Config.memSize := by omega
      simp [Memory.ofImage, hb, Memory.wfFrom, ih, ha]

/-- An image of 4096 bytes has the canonical form. -/
theorem Memory.wf_ofImage {image : List Byte} (h : image.length = Config.memSize) :
    Memory.wf (Memory.ofImage 0 image) = true := Memory.wfFrom_ofImage image 0 (by omega)

/-- An image laid out from `a` on reads as its bytes. -/
theorem Memory.read_ofImage : ∀ (image : List Byte) (a k : Nat) (h : k < image.length), a + image.length ≤ Config.memSize →
    Memory.read (Memory.ofImage a image) (a + k) = image[k]
  | b :: rest, a, 0, _, hm => by
    simp only [List.length_cons] at hm
    by_cases hb : b = 0#8
    · simp [Memory.ofImage, hb, Memory.read_below (Memory.wfFrom_ofImage rest (a + 1) (by omega)) (Nat.lt_succ_self a)]
    · simp [Memory.ofImage, hb, Memory.read]
  | b :: rest, a, k + 1, h, hm => by
    simp only [List.length_cons] at hm h
    have ih := Memory.read_ofImage rest (a + 1) k (by omega) (by omega)
    have hk : a + (k + 1) = a + 1 + k := by omega
    by_cases hb : b = 0#8
    · simp [Memory.ofImage, hb, hk, ih]
    · have hne : ¬ a + 1 + k = a := by omega
      simp [Memory.ofImage, hb, Memory.read, hk, ih, hne]

/-! ### The state's memory -/

/-- A store leaves every other byte alone. -/
theorem State.readMem_writeMem_ne (s : State) {c d : Nat} (h : d ≠ c) (w : Byte) :
    (s.writeMem c w).readMem d = s.readMem d := Memory.read_write_ne s.mem h w

/-- A load after a store of the same byte. -/
theorem State.readMem_writeMem_same {s : State} (h : Memory.wf s.mem = true) {c : Nat} (hc : c < 4096) (w : Byte) :
    (s.writeMem c w).readMem c = w := Memory.read_write_same h hc w

/-- A store keeps the canonical form. -/
theorem State.wf_writeMem {s : State} (h : Memory.wf s.mem = true) (c : Nat) (w : Byte) :
    Memory.wf (s.writeMem c w).mem = true := Memory.wf_write h c w

/-- Reset memory has the canonical form. -/
theorem reset_memory_wf : Memory.wf State.reset.mem = true := rfl

/-- `reset()` leaves memory canonical. -/
theorem resetCall_memory_wf (s : State) : Memory.wf (resetCall s).mem = true := rfl

end Sys2Proof.Machine
end

