-- ==== Sys2Proof/Laws/Ops.lean ====
section
/-! SUPPORT. One lemma per shared operation: everything it can do. -/

namespace Sys2Proof.Machine

/-! ### Spans of memory (spec/44_index_memory.md) -/

/-- A span inside memory has no bad address. -/
theorem badAddress_eq_none {i len : Nat} (h : len = 0 ∨ i + len ≤ 4096) : badAddress i len = none := by
  rw [badAddress, if_neg]
  show ¬(len ≠ 0 ∧ 4096 < i + len)
  omega

/-- The lowest address past the end of memory of a span that leaves it. -/
theorem badAddress_eq_some {i len : Nat} (h : len ≠ 0) (h' : 4096 < i + len) :
    badAddress i len = some (max i 4096) := by
  rw [badAddress, if_pos ⟨h, h'⟩]
  rfl

/-- A checked span inside memory: the instruction goes on. -/
theorem withSpan_of_fits {op : Word} {len : Nat} {s k : State} (h : len = 0 ∨ s.i.toNat + len ≤ 4096) :
    withSpan op len s k = .next k := by simp [withSpan, badAddress_eq_none h]

/-- A checked span that leaves memory: the instruction faults before it writes. -/
theorem withSpan_of_leaves {op : Word} {len : Nat} {s k : State} (h : len ≠ 0) (h' : 4096 < s.i.toNat + len) :
    withSpan op len s k = raise .dataAddressOutOfBounds (some op) (some (max s.i.toNat 4096)) s := by
  simp [withSpan, badAddress_eq_some h h']

/-- All that a checked span can do. -/
theorem withSpan_cases {op : Word} {len : Nat} {s k t : State} (h : withSpan op len s k = .next t) :
    ((len = 0 ∨ s.i.toNat + len ≤ 4096) ∧ t = k) ∨
    ∃ a, t = { s with halt := .faulted .dataAddressOutOfBounds s.pc (some op) (some a) } := by
  unfold withSpan at h
  split at h
  · next a _ => exact .inr ⟨a, by simpa [raise] using h.symm⟩
  · next hb =>
    refine .inl ⟨?_, by simpa using h.symm⟩
    by_contra hc
    rw [badAddress_eq_some (by omega) (by omega)] at hb
    exact absurd hb (by simp)

/-! ### Storing and loading a range of registers -/

/-- A stored range changes memory alone. -/
theorem storeRange_frame (n : Nat) (s : State) : { storeRange n s with mem := s.mem } = s := by
  induction n with
  | zero => rfl
  | succ k ih => simpa [storeRange, State.writeMem] using ih

/-- A stored range leaves every byte outside it alone. -/
theorem storeRange_readMem_outside (s : State) (a : Nat) :
    ∀ n : Nat, (a < s.i.toNat ∨ s.i.toNat + n ≤ a) → (storeRange n s).readMem a = s.readMem a
  | 0, _ => rfl
  | k + 1, h => by
    rw [storeRange, State.readMem_writeMem_ne _ (by omega)]
    exact storeRange_readMem_outside s a k (by omega)

/-- A stored range keeps the canonical form. -/
theorem storeRange_wf {s : State} (h : Memory.wf s.mem = true) : ∀ n : Nat, Memory.wf (storeRange n s).mem = true
  | 0 => h
  | k + 1 => State.wf_writeMem (storeRange_wf h k) _ _

/-- A stored range inside memory reads as the registers. -/
theorem storeRange_readMem_inside {s : State} (h : Memory.wf s.mem = true) :
    ∀ n k : Nat, k < n → s.i.toNat + n ≤ 4096 →
      (storeRange n s).readMem (s.i.toNat + k) = s.reg (BitVec.ofNat 4 k)
  | n + 1, k, hk, hn => by
    rw [storeRange]
    by_cases hkn : k = n
    · subst hkn
      exact State.readMem_writeMem_same (storeRange_wf h k) (by omega) _
    · rw [State.readMem_writeMem_ne _ (by omega)]
      exact storeRange_readMem_inside h n k (by omega) (by omega)

/-- A loaded range changes registers alone. -/
theorem loadRange_frame (n : Nat) (s : State) : { loadRange n s with v := s.v } = s := by
  induction n with
  | zero => rfl
  | succ k ih => simpa [loadRange, State.setReg] using ih

/-- Every register after a loaded range. -/
theorem loadRange_reg (s : State) (r : Reg) : ∀ n : Nat, n ≤ 16 →
    (loadRange n s).reg r = if r.toNat < n then s.readMem (s.i.toNat + r.toNat) else s.reg r
  | 0, _ => by simp [loadRange]
  | k + 1, hk => by
    have hk4 : (BitVec.ofNat 4 k).toNat = k := by simp; omega
    rw [loadRange, State.setReg_reg, loadRange_reg s r k (by omega)]
    by_cases h : r = BitVec.ofNat 4 k
    · subst h
      rw [if_pos rfl, hk4, if_pos (Nat.lt_succ_self k)]
    · have : r.toNat ≠ k := fun h' => h (BitVec.eq_of_toNat_eq (by omega))
      rw [if_neg h]
      by_cases h' : r.toNat < k
      · rw [if_pos h', if_pos (by omega)]
      · rw [if_neg h', if_neg (by omega)]

/-! ### Flag-writing arithmetic (spec/43_alu.md R131) -/

/-- A flag-writing instruction changes registers alone. -/
theorem writeFlagged_frame (ord : AliasOrder) (x y : Reg) (f g : Byte → Byte → Byte) (s : State) :
    { writeFlagged ord x y f g s with v := s.v } = s := rfl

/-- Registers that are neither the destination nor VF keep their value. -/
theorem writeFlagged_reg_other (ord : AliasOrder) {x r : Reg} (y : Reg) (f g : Byte → Byte → Byte) (s : State)
    (hx : r ≠ x) (hf : r ≠ vf) : (writeFlagged ord x y f g s).reg r = s.reg r := by
  simp [writeFlagged, hx, hf]

/-- The flag stands in VF unless VF is the destination. -/
theorem writeFlagged_reg_vf (ord : AliasOrder) {x : Reg} (y : Reg) (f g : Byte → Byte → Byte) (s : State)
    (hx : x ≠ vf) : (writeFlagged ord x y f g s).reg vf = f (s.reg x) (s.reg y) := by
  simp [writeFlagged, Ne.symm hx]

/-- The result, its operands as `ALIAS_ORDER` reads them once VF holds the flag. -/
theorem writeFlagged_reg_result (ord : AliasOrder) (x y : Reg) (f g : Byte → Byte → Byte) (s : State) :
    (writeFlagged ord x y f g s).reg x =
      g (operandNow ord x (s.reg x) (s.setReg vf (f (s.reg x) (s.reg y))))
        (operandNow ord y (s.reg y) (s.setReg vf (f (s.reg x) (s.reg y)))) := by
  simp [writeFlagged]

/-! ### Key skips (spec/42_skips.md R124, R125) -/

/-- A key index in range decides the skip. -/
theorem skipOnKey_of_key {op : Word} {x : Reg} {want : Bool} {s : State} (h : (s.reg x).toNat < 16) :
    skipOnKey op x want s = .next (s.skipIf (s.keyDown (s.reg x).toNat == want)) := by simp [skipOnKey, h]

/-- A key index out of range faults. -/
theorem skipOnKey_of_no_key {op : Word} {x : Reg} {want : Bool} {s : State} (h : 16 ≤ (s.reg x).toNat) :
    skipOnKey op x want s = raise .keyIndexOutOfRange (some op) (some (s.reg x).toNat) s := by
  rw [skipOnKey, if_neg (by omega)]

/-! ### Drawing (spec/40_display.md R101) -/

/-- One plot changes the framebuffer and registers alone. -/
theorem plotFlagged_frame (px : Fin 64) (py : Fin 32) (b : Bool) (s : State) :
    { plotFlagged px py b s with fb := s.fb, v := s.v } = s := rfl

/-- One plot writes no register but VF. -/
theorem plotFlagged_reg (px : Fin 64) (py : Fin 32) (b : Bool) (s : State) (r : Reg) :
    (plotFlagged px py b s).reg r = if r = vf then (if s.collides px py b then 1 else s.reg vf) else s.reg r := by
  simp [plotFlagged]

/-- One plot XORs one pixel. -/
theorem plotFlagged_pixel (x px : Fin 64) (y py : Fin 32) (b : Bool) (s : State) :
    (plotFlagged x y b s).pixel px py = if px = x ∧ py = y then (s.pixel px py ^^ b) else s.pixel px py := by
  simp [plotFlagged]

/-- A row changes the framebuffer and registers alone. -/
theorem drawCols_frame (ord : AliasOrder) (x y : Reg) (x0 y0 b : Byte) (row : Nat) (s : State) :
    ∀ n : Nat, { drawCols ord x y x0 y0 b row n s with fb := s.fb, v := s.v } = s
  | 0 => rfl
  | n + 1 => drawCols_frame ord x y x0 y0 b row s n

/-- A row writes no register but VF. -/
theorem drawCols_reg (ord : AliasOrder) (x y : Reg) (x0 y0 b : Byte) (row : Nat) (s : State) {r : Reg} (h : r ≠ vf) :
    ∀ n : Nat, (drawCols ord x y x0 y0 b row n s).reg r = s.reg r
  | 0 => rfl
  | n + 1 => by
    rw [drawCols, drawPixel, plotFlagged_reg, if_neg h]
    exact drawCols_reg ord x y x0 y0 b row s h n

/-- A sprite changes the framebuffer and registers alone. -/
theorem drawRows_frame (ord : AliasOrder) (x y : Reg) (x0 y0 : Byte) (m : Memory) (i : Nat) (s : State) :
    ∀ n : Nat, { drawRows ord x y x0 y0 m i n s with fb := s.fb, v := s.v } = s
  | 0 => rfl
  | n + 1 => by
    have ih := drawRows_frame ord x y x0 y0 m i s n
    have hc := drawCols_frame ord x y x0 y0 (Memory.read m (i + n)) n (drawRows ord x y x0 y0 m i n s) 8
    rw [drawRows]
    calc _ = { { drawCols ord x y x0 y0 (Memory.read m (i + n)) n 8 (drawRows ord x y x0 y0 m i n s) with
                  fb := (drawRows ord x y x0 y0 m i n s).fb, v := (drawRows ord x y x0 y0 m i n s).v } with
                fb := s.fb, v := s.v } := rfl
      _ = { drawRows ord x y x0 y0 m i n s with fb := s.fb, v := s.v } := by rw [hc]
      _ = s := ih

/-- A sprite writes no register but VF. -/
theorem drawRows_reg (ord : AliasOrder) (x y : Reg) (x0 y0 : Byte) (m : Memory) (i : Nat) (s : State) {r : Reg}
    (h : r ≠ vf) : ∀ n : Nat, (drawRows ord x y x0 y0 m i n s).reg r = s.reg r
  | 0 => rfl
  | n + 1 => by rw [drawRows, drawCols_reg ord x y x0 y0 _ _ _ h 8, drawRows_reg ord x y x0 y0 m i s h n]

/-- DrawSprite's effect changes the framebuffer and registers alone. -/
theorem drawSprite_frame (ord : AliasOrder) (x y : Reg) (n : Nat) (s : State) :
    { drawSprite ord x y n s with fb := s.fb, v := s.v } = s := by
  have h := drawRows_frame ord x y (s.reg x) (s.reg y) s.mem s.i.toNat (s.setReg vf 0) n
  calc _ = { { drawSprite ord x y n s with fb := (s.setReg vf 0).fb, v := (s.setReg vf 0).v } with
              fb := s.fb, v := s.v } := rfl
    _ = { s.setReg vf 0 with fb := s.fb, v := s.v } := by rw [drawSprite, h]
    _ = s := rfl

/-- DrawSprite's effect writes no register but VF. -/
theorem drawSprite_reg (ord : AliasOrder) (x y : Reg) (n : Nat) (s : State) {r : Reg} (h : r ≠ vf) :
    (drawSprite ord x y n s).reg r = s.reg r := by
  rw [drawSprite, drawRows_reg ord x y _ _ _ _ _ h, State.setReg_reg, if_neg h]

/-! ### Fetch (spec/20_memory.md R42) -/

/-- A fetch inside memory. -/
theorem fetch_of_inside {s : State} (h : s.pc.toNat + 1 < 4096) :
    s.fetch = some (wordOfBytes (s.readMem s.pc.toNat) (s.readMem (s.pc.toNat + 1))) := if_pos h

/-- A fetch past the end of memory. -/
theorem fetch_of_outside {s : State} (h : 4096 ≤ s.pc.toNat + 1) : s.fetch = none :=
  if_neg (show ¬ s.pc.toNat + 1 < 4096 by omega)

/-! ### Timers (spec/60_exceptions.md R211) -/

/-- What the delay timer's countdown does. -/
theorem countDelay_eq (s : State) : countDelay s = { s with dt := if s.dt = 0 then 0 else s.dt - 1 } := by
  unfold countDelay
  by_cases h : s.dt = 0#8
  · cases s; simp_all
  · simp [h, State.setDt]

/-- What the sound timer's countdown does. -/
theorem countSound_eq (s : State) :
    countSound s = { s with
      st := if s.st = 0 then 0 else s.st - 1
      soundOn := if s.st = 1 then false else s.soundOn } := by
  unfold countSound
  by_cases h : s.st = 0#8
  · cases s; simp_all
  · by_cases h1 : s.st = 1#8
    · simp [h1, State.setSt, State.stopSound]
    · have h2 : ¬ s.st - 1#8 = 0#8 := by bv_omega
      simp [h, h1, h2, State.setSt]

end Sys2Proof.Machine
end

