-- ==== Sys2Proof/Laws/PerInstr.lean ====
section
/-! SUPPORT. Families of statements about every instruction as syntax, one lemma per constructor.
`OwnRow`: the opcode of a well-formed instruction matches its row of the catalog (spec/30_encoding.md R68), which reads
the instruction back. `ArgCount`: no argument list exceeds three entries (R63). -/

namespace Sys2Proof.Laws

/-- The opcode of a well-formed instruction hits the catalog entry that reads it back. -/
def OwnRow.Statement (i : Instr) : Prop :=
  i.WellFormed → ∃ e ∈ catalog, e.hits Config.mask59 (encode i) = true ∧ e.read (encode i) = i

/-- An entry of the catalog by its row, the first being 0. -/
theorem OwnRow.of_row {i : Instr} (k : Nat) (e : Entry) (hk : catalog[k]? = some e)
    (hh : encode i &&& e.mask = e.pattern) (hr : e.read (encode i) = i) : OwnRow.Statement i := fun _ =>
  ⟨e, List.mem_of_getElem? hk, by simp [Entry.hits, hh], hr⟩

/-- The two entries whose mask is `MASK_5_9`. -/
theorem OwnRow.of_row59 {i : Instr} (k : Nat) (e : Entry) (hk : catalog[k]? = some e) (ho : e.open59 = true)
    (hh : i.WellFormed → encode i &&& e.mask = e.pattern ∨
      (encode i &&& 0xF000 = e.pattern ∧ Config.mask59 = .coarse)) (hr : e.read (encode i) = i) :
    OwnRow.Statement i := fun hw =>
  ⟨e, List.mem_of_getElem? hk, by rcases hh hw with h | ⟨h, h'⟩ <;> simp_all [Entry.hits], hr⟩

theorem OwnRow.clearScreen : OwnRow.Statement .clearScreen :=
  of_row 0 _ rfl rfl rfl

theorem OwnRow.ret : OwnRow.Statement .ret :=
  of_row 1 _ rfl rfl rfl

theorem OwnRow.jump (a : Addr) : OwnRow.Statement (.jump a) :=
  of_row 2 _ rfl (encAddr_and _ _) (by simp [encode])

theorem OwnRow.call (a : Addr) : OwnRow.Statement (.call a) :=
  of_row 3 _ rfl (encAddr_and _ _) (by simp [encode])

theorem OwnRow.skipEqByte (x : Reg) (kk : Byte) : OwnRow.Statement (.skipEqByte x kk) :=
  of_row 4 _ rfl (encXKK_and_top _ _ _) (by simp [encode])

theorem OwnRow.skipNeByte (x : Reg) (kk : Byte) : OwnRow.Statement (.skipNeByte x kk) :=
  of_row 5 _ rfl (encXKK_and_top _ _ _) (by simp [encode])

theorem OwnRow.skipEqReg (x : Reg) (y : Reg) (n : Nibble) : OwnRow.Statement (.skipEqReg x y n) :=
  of_row59 6 _ rfl rfl (fun hw => by
    rcases (by simpa [Instr.WellFormed, Instr.wellFormedFor] using hw : n = 0#4 ∨ Config.mask59 = .coarse) with h | h
    · exact .inl (by subst h; exact encXYN_and_low _ _ _ _)
    · exact .inr ⟨encXYN_and_top _ _ _ _, h⟩) (by simp [encode])

theorem OwnRow.loadByte (x : Reg) (kk : Byte) : OwnRow.Statement (.loadByte x kk) :=
  of_row 7 _ rfl (encXKK_and_top _ _ _) (by simp [encode])

theorem OwnRow.addByte (x : Reg) (kk : Byte) : OwnRow.Statement (.addByte x kk) :=
  of_row 8 _ rfl (encXKK_and_top _ _ _) (by simp [encode])

theorem OwnRow.loadReg (x : Reg) (y : Reg) : OwnRow.Statement (.loadReg x y) :=
  of_row 9 _ rfl (encXYN_and_low _ _ _ _) (by simp [encode])

theorem OwnRow.orReg (x : Reg) (y : Reg) : OwnRow.Statement (.orReg x y) :=
  of_row 10 _ rfl (encXYN_and_low _ _ _ _) (by simp [encode])

theorem OwnRow.andReg (x : Reg) (y : Reg) : OwnRow.Statement (.andReg x y) :=
  of_row 11 _ rfl (encXYN_and_low _ _ _ _) (by simp [encode])

theorem OwnRow.xorReg (x : Reg) (y : Reg) : OwnRow.Statement (.xorReg x y) :=
  of_row 12 _ rfl (encXYN_and_low _ _ _ _) (by simp [encode])

theorem OwnRow.addReg (x : Reg) (y : Reg) : OwnRow.Statement (.addReg x y) :=
  of_row 13 _ rfl (encXYN_and_low _ _ _ _) (by simp [encode])

theorem OwnRow.subReg (x : Reg) (y : Reg) : OwnRow.Statement (.subReg x y) :=
  of_row 14 _ rfl (encXYN_and_low _ _ _ _) (by simp [encode])

theorem OwnRow.shiftRight (x : Reg) (y : Reg) : OwnRow.Statement (.shiftRight x y) :=
  of_row 15 _ rfl (encXYN_and_low _ _ _ _) (by simp [encode])

theorem OwnRow.subnReg (x : Reg) (y : Reg) : OwnRow.Statement (.subnReg x y) :=
  of_row 16 _ rfl (encXYN_and_low _ _ _ _) (by simp [encode])

theorem OwnRow.shiftLeft (x : Reg) (y : Reg) : OwnRow.Statement (.shiftLeft x y) :=
  of_row 17 _ rfl (encXYN_and_low _ _ _ _) (by simp [encode])

theorem OwnRow.skipNeReg (x : Reg) (y : Reg) (n : Nibble) : OwnRow.Statement (.skipNeReg x y n) :=
  of_row59 18 _ rfl rfl (fun hw => by
    rcases (by simpa [Instr.WellFormed, Instr.wellFormedFor] using hw : n = 0#4 ∨ Config.mask59 = .coarse) with h | h
    · exact .inl (by subst h; exact encXYN_and_low _ _ _ _)
    · exact .inr ⟨encXYN_and_top _ _ _ _, h⟩) (by simp [encode])

theorem OwnRow.loadIndex (a : Addr) : OwnRow.Statement (.loadIndex a) :=
  of_row 19 _ rfl (encAddr_and _ _) (by simp [encode])

theorem OwnRow.jumpPlusV0 (a : Addr) : OwnRow.Statement (.jumpPlusV0 a) :=
  of_row 20 _ rfl (encAddr_and _ _) (by simp [encode])

theorem OwnRow.random (x : Reg) (kk : Byte) : OwnRow.Statement (.random x kk) :=
  of_row 21 _ rfl (encXKK_and_top _ _ _) (by simp [encode])

theorem OwnRow.skipKeyPressed (x : Reg) : OwnRow.Statement (.skipKeyPressed x) :=
  of_row 22 _ rfl (encXKK_and_low _ _ _) (by simp [encode])

theorem OwnRow.skipKeyNotPressed (x : Reg) : OwnRow.Statement (.skipKeyNotPressed x) :=
  of_row 23 _ rfl (encXKK_and_low _ _ _) (by simp [encode])

theorem OwnRow.drawSprite (x : Reg) (y : Reg) (n : Nibble) : OwnRow.Statement (.drawSprite x y n) :=
  of_row 24 _ rfl (encXYN_and_top _ _ _ _) (by simp [encode])

theorem OwnRow.loadVxDelay (x : Reg) : OwnRow.Statement (.loadVxDelay x) :=
  of_row 25 _ rfl (encXKK_and_low _ _ _) (by simp [encode])

theorem OwnRow.loadVxKey (x : Reg) : OwnRow.Statement (.loadVxKey x) :=
  of_row 26 _ rfl (encXKK_and_low _ _ _) (by simp [encode])

theorem OwnRow.loadDelayVx (x : Reg) : OwnRow.Statement (.loadDelayVx x) :=
  of_row 27 _ rfl (encXKK_and_low _ _ _) (by simp [encode])

theorem OwnRow.loadSoundVx (x : Reg) : OwnRow.Statement (.loadSoundVx x) :=
  of_row 28 _ rfl (encXKK_and_low _ _ _) (by simp [encode])

theorem OwnRow.addIndexVx (x : Reg) : OwnRow.Statement (.addIndexVx x) :=
  of_row 29 _ rfl (encXKK_and_low _ _ _) (by simp [encode])

theorem OwnRow.loadFontVx (x : Reg) : OwnRow.Statement (.loadFontVx x) :=
  of_row 30 _ rfl (encXKK_and_low _ _ _) (by simp [encode])

theorem OwnRow.storeBCD (x : Reg) : OwnRow.Statement (.storeBCD x) :=
  of_row 31 _ rfl (encXKK_and_low _ _ _) (by simp [encode])

theorem OwnRow.storeRegisters (x : Reg) : OwnRow.Statement (.storeRegisters x) :=
  of_row 32 _ rfl (encXKK_and_low _ _ _) (by simp [encode])

theorem OwnRow.loadRegisters (x : Reg) : OwnRow.Statement (.loadRegisters x) :=
  of_row 33 _ rfl (encXKK_and_low _ _ _) (by simp [encode])

/-- No argument list exceeds three entries. -/
def ArgCount.Statement (i : Instr) : Prop := i.args.length ≤ 3

theorem ArgCount.clearScreen : ArgCount.Statement .clearScreen := (by decide : 0 ≤ 3)
theorem ArgCount.ret : ArgCount.Statement .ret := (by decide : 0 ≤ 3)
theorem ArgCount.jump (a : Addr) : ArgCount.Statement (.jump a) := (by decide : 2 ≤ 3)
theorem ArgCount.call (a : Addr) : ArgCount.Statement (.call a) := (by decide : 2 ≤ 3)
theorem ArgCount.skipEqByte (x : Reg) (kk : Byte) : ArgCount.Statement (.skipEqByte x kk) := (by decide : 2 ≤ 3)
theorem ArgCount.skipNeByte (x : Reg) (kk : Byte) : ArgCount.Statement (.skipNeByte x kk) := (by decide : 2 ≤ 3)
theorem ArgCount.skipEqReg (x : Reg) (y : Reg) (n : Nibble) : ArgCount.Statement (.skipEqReg x y n) := (by decide : 2 ≤ 3)
theorem ArgCount.loadByte (x : Reg) (kk : Byte) : ArgCount.Statement (.loadByte x kk) := (by decide : 2 ≤ 3)
theorem ArgCount.addByte (x : Reg) (kk : Byte) : ArgCount.Statement (.addByte x kk) := (by decide : 2 ≤ 3)
theorem ArgCount.loadReg (x : Reg) (y : Reg) : ArgCount.Statement (.loadReg x y) := (by decide : 2 ≤ 3)
theorem ArgCount.orReg (x : Reg) (y : Reg) : ArgCount.Statement (.orReg x y) := (by decide : 2 ≤ 3)
theorem ArgCount.andReg (x : Reg) (y : Reg) : ArgCount.Statement (.andReg x y) := (by decide : 2 ≤ 3)
theorem ArgCount.xorReg (x : Reg) (y : Reg) : ArgCount.Statement (.xorReg x y) := (by decide : 2 ≤ 3)
theorem ArgCount.addReg (x : Reg) (y : Reg) : ArgCount.Statement (.addReg x y) := (by decide : 2 ≤ 3)
theorem ArgCount.subReg (x : Reg) (y : Reg) : ArgCount.Statement (.subReg x y) := (by decide : 2 ≤ 3)
theorem ArgCount.shiftRight (x : Reg) (y : Reg) : ArgCount.Statement (.shiftRight x y) := (by decide : 1 ≤ 3)
theorem ArgCount.subnReg (x : Reg) (y : Reg) : ArgCount.Statement (.subnReg x y) := (by decide : 2 ≤ 3)
theorem ArgCount.shiftLeft (x : Reg) (y : Reg) : ArgCount.Statement (.shiftLeft x y) := (by decide : 1 ≤ 3)
theorem ArgCount.skipNeReg (x : Reg) (y : Reg) (n : Nibble) : ArgCount.Statement (.skipNeReg x y n) := (by decide : 2 ≤ 3)
theorem ArgCount.loadIndex (a : Addr) : ArgCount.Statement (.loadIndex a) := (by decide : 2 ≤ 3)
theorem ArgCount.jumpPlusV0 (a : Addr) : ArgCount.Statement (.jumpPlusV0 a) := (by decide : 2 ≤ 3)
theorem ArgCount.random (x : Reg) (kk : Byte) : ArgCount.Statement (.random x kk) := (by decide : 2 ≤ 3)
theorem ArgCount.skipKeyPressed (x : Reg) : ArgCount.Statement (.skipKeyPressed x) := (by decide : 1 ≤ 3)
theorem ArgCount.skipKeyNotPressed (x : Reg) : ArgCount.Statement (.skipKeyNotPressed x) := (by decide : 1 ≤ 3)
theorem ArgCount.drawSprite (x : Reg) (y : Reg) (n : Nibble) : ArgCount.Statement (.drawSprite x y n) := (by decide : 3 ≤ 3)
theorem ArgCount.loadVxDelay (x : Reg) : ArgCount.Statement (.loadVxDelay x) := (by decide : 1 ≤ 3)
theorem ArgCount.loadVxKey (x : Reg) : ArgCount.Statement (.loadVxKey x) := (by decide : 1 ≤ 3)
theorem ArgCount.loadDelayVx (x : Reg) : ArgCount.Statement (.loadDelayVx x) := (by decide : 1 ≤ 3)
theorem ArgCount.loadSoundVx (x : Reg) : ArgCount.Statement (.loadSoundVx x) := (by decide : 1 ≤ 3)
theorem ArgCount.addIndexVx (x : Reg) : ArgCount.Statement (.addIndexVx x) := (by decide : 1 ≤ 3)
theorem ArgCount.loadFontVx (x : Reg) : ArgCount.Statement (.loadFontVx x) := (by decide : 1 ≤ 3)
theorem ArgCount.storeBCD (x : Reg) : ArgCount.Statement (.storeBCD x) := (by decide : 1 ≤ 3)
theorem ArgCount.storeRegisters (x : Reg) : ArgCount.Statement (.storeRegisters x) := (by decide : 1 ≤ 3)
theorem ArgCount.loadRegisters (x : Reg) : ArgCount.Statement (.loadRegisters x) := (by decide : 1 ≤ 3)

end Sys2Proof.Laws
end

