-- ==== Sys2Proof/Laws/Step.lean ====
section
/-! SUPPORT. Everything a transaction can do, said once. -/

namespace Sys2Proof.Machine

/-- With no host call pending the transaction is an instruction step. -/
theorem step_of_no_call {s : State} (h : s.pending = []) : step s = stepCall s := by simp [step, transact, h]

/-- A pending host call is performed, on the state whose calls are the rest. -/
theorem step_of_call (s : State) (c : HostCall) (rest : List HostCall) :
    step { s with pending := c :: rest } = perform c { s with pending := rest } := rfl

/-- Running an opcode: its instruction's meaning, or `DecodeFailure`. -/
theorem runWord_eq (op : Word) (s : State) :
    runWord op s =
      match decodeWord op with
      | some i => exec i s
      | none => raise .decodeFailure (some op) none s := by
  rw [runWord, decode_two, wordOfBytes_bytesOfWord]
  cases decodeWord op <;> rfl

/-- All that an instruction step can answer as a next state: a failed fetch, a failed decode, or an instruction. -/
theorem stepCall_cases {s t : State} (h : stepCall s = .next t) :
    s.halt = .running ∧
      ((s.fetch = none ∧ t = { s with boot := false, halt := .faulted .addressOutOfBounds s.pc none none }) ∨
       (∃ op, s.fetch = some op ∧ decodeWord op = none ∧
          t = { s with boot := false, halt := .faulted .decodeFailure s.pc (some op) none }) ∨
       ∃ op i, s.fetch = some op ∧ decodeWord op = some i ∧ exec i { s with boot := false } = .next t) := by
  unfold stepCall at h
  split at h
  · next hr =>
    refine ⟨hr, ?_⟩
    split at h
    · next op hf =>
      rw [runWord_eq] at h
      cases hd : decodeWord op with
      | none =>
        rw [hd] at h
        exact .inr (.inl ⟨op, hf, hd, by simpa [raise] using h.symm⟩)
      | some i =>
        rw [hd] at h
        exact .inr (.inr ⟨op, i, hf, hd, h⟩)
    · next hf => exact .inl ⟨hf, by simpa [raise] using h.symm⟩
  · exact absurd h (by simp)

/-- All that a host call can answer as a next state. -/
theorem perform_cases {c : HostCall} {s t : State} (h : perform c s = .next t) :
    (c = .reset ∧ t = resetCall s) ∨
    (∃ image, c = .load image ∧ s.boot = true ∧ s.halt = .running ∧ image.length = 4096 ∧
      t = { s with mem := Memory.ofImage 0 image }) ∨
    (∃ keys, c = .step keys ∧ stepCall { s with keys := keys } = .next t) ∨
    (c = .tick ∧ s.halt = .running ∧ t = { countSound (countDelay s) with boot := false }) ∨
    ∃ key, c = .setLastKey key ∧ lastKeyAllowed key = true ∧ t = { s with lastKey := key } := by
  cases c with
  | reset => exact .inl ⟨rfl, by simpa [perform] using h.symm⟩
  | load image =>
    simp only [perform, loadCall] at h
    split at h
    · next hb =>
      split at h
      · next hl => exact .inr (.inl ⟨image, rfl, hb.1, hb.2, hl, by simpa using h.symm⟩)
      · exact absurd h (by simp)
    · exact absurd h (by simp)
  | step keys => exact .inr (.inr (.inl ⟨keys, rfl, h⟩))
  | tick =>
    simp only [perform, tickCall] at h
    split at h
    · next hr => exact .inr (.inr (.inr (.inl ⟨rfl, hr, by simpa using h.symm⟩)))
    · exact absurd h (by simp)
  | setLastKey key =>
    simp only [perform, setLastKeyCall] at h
    split at h
    · next hk => exact .inr (.inr (.inr (.inr ⟨key, rfl, hk, by simpa using h.symm⟩)))
    · exact absurd h (by simp)

/-- All that a transaction can answer as a next state. -/
theorem step_cases {s t : State} (h : step s = .next t) :
    (s.pending = [] ∧ stepCall s = .next t) ∨
    ∃ c rest, s.pending = c :: rest ∧ perform c { s with pending := rest } = .next t := by
  unfold step transact at h
  split at h
  · next hp => exact .inl ⟨hp, h⟩
  · next c rest hp => exact .inr ⟨c, rest, hp, h⟩

/-- A placed opcode is what the next fetch reads, where the pc is inside canonical memory. -/
theorem fetch_placeOpcode {s : State} (hw : Memory.wf s.mem = true) (hp : s.pc.toNat + 1 < 4096) (op : Word) :
    (placeOpcode op s).fetch = some op := by
  have h1 : (placeOpcode op s).readMem s.pc.toNat = (bytesOfWord op).1 := by
    show ((s.writeMem s.pc.toNat _).writeMem (s.pc.toNat + 1) _).readMem s.pc.toNat = _
    rw [State.readMem_writeMem_ne _ (by omega), State.readMem_writeMem_same hw (by omega)]
  have h2 : (placeOpcode op s).readMem (s.pc.toNat + 1) = (bytesOfWord op).2 :=
    State.readMem_writeMem_same (State.wf_writeMem hw _ _) hp _
  have hpc : (placeOpcode op s).pc = s.pc := rfl
  rw [fetch_of_inside (by rw [hpc]; exact hp), hpc, h1, h2, wordOfBytes_bytesOfWord]

end Sys2Proof.Machine
end

