-- ==== Sys2Proof/Tests/Slice0.lean ====
section
/-! SUPPORT. The author's tests. Expected values are the spec's own: the worked examples S1 to S13 and the vectors of
spec/95_test_vectors.md, named by their ids, and words written out from the encodings of spec/30_encoding.md R68. The
last part shows, for each statement with hypotheses, concrete inputs that meet them. -/

namespace Sys2Proof.Tests

open Sys2Proof Sys2Proof.Machine

/-! ### Helpers -/

/-- What `f` sees of the next state, none where there is none. -/
def seen {α : Type} (f : State → α) : Result → Option α
  | .next t => some (f t)
  | .fault _ => none
  | .refused _ => none

/-- The state with some registers set. -/
def withRegs (l : List (Reg × Byte)) (s : State) : State := l.foldl (fun s p => s.setReg p.1 p.2) s

/-- The state with some bytes stored. -/
def withBytes (l : List (Nat × Byte)) (s : State) : State := l.foldl (fun s p => s.writeMem p.1 p.2) s

/-- Some registers set and `i`. -/
def withI (i : Word) (l : List (Reg × Byte)) : State := withRegs l { State.reset with i := i }

/-- One step of the machine on an opcode placed at the pc of `s`. -/
def run (s : State) (w : Nat) : Result := step (s.withFetchWord 16 w)

/-- The machine right after reset with some registers set. -/
def fresh (l : List (Reg × Byte)) : State := withRegs l State.reset

/-! ### Well-formedness -/

theorem test_wf_refuses_skipEqReg_low_nibble : Instr.wellFormedFor .fine (.skipEqReg 1 2 1) = false := by decide
theorem test_wf_refuses_skipNeReg_low_nibble : Instr.wellFormedFor .fine (.skipNeReg 1 2 0xF) = false := by decide
theorem test_wf_allows_skipEqReg_coarse : Instr.wellFormedFor .coarse (.skipEqReg 1 2 1) = true := by decide
theorem test_wf_allows_skipNeReg : Instr.wellFormedFor .fine (.skipNeReg 1 2 0) = true := by decide

/-! ### Decoding: every kind, a word written out from its encoding in R68 -/

theorem test_decode_clearScreen : decodeWord 0b0000000011100000 = some .clearScreen := by decide
theorem test_decode_return : decodeWord 0b0000000011101110 = some .ret := by decide
theorem test_decode_jump : decodeWord 0b0001001000001000 = some (.jump 0x208) := by decide
theorem test_decode_call : decodeWord 0b0010001100000000 = some (.call 0x300) := by decide
theorem test_decode_skipEqByte : decodeWord 0b0011001100010000 = some (.skipEqByte 3 0x10) := by decide
theorem test_decode_skipNeByte : decodeWord 0b0100001100010000 = some (.skipNeByte 3 0x10) := by decide
theorem test_decode_skipEqReg : decodeWord 0b0101000100100000 = some (.skipEqReg 1 2 0) := by decide
theorem test_decode_loadByte : decodeWord 0b0110001000101010 = some (.loadByte 2 0x2A) := by decide
theorem test_decode_addByte : decodeWord 0b0111001000100000 = some (.addByte 2 0x20) := by decide
theorem test_decode_loadReg : decodeWord 0b1000000101110000 = some (.loadReg 1 7) := by decide
theorem test_decode_or : decodeWord 0b1000000100100001 = some (.orReg 1 2) := by decide
theorem test_decode_and : decodeWord 0b1000000100100010 = some (.andReg 1 2) := by decide
theorem test_decode_xor : decodeWord 0b1000000100100011 = some (.xorReg 1 2) := by decide
theorem test_decode_addReg : decodeWord 0b1000000100100100 = some (.addReg 1 2) := by decide
theorem test_decode_subReg : decodeWord 0b1000000100100101 = some (.subReg 1 2) := by decide
theorem test_decode_shiftRight : decodeWord 0b1000101010110110 = some (.shiftRight 0xA 0xB) := by decide
theorem test_decode_subnReg : decodeWord 0b1000000100100111 = some (.subnReg 1 2) := by decide
theorem test_decode_shiftLeft : decodeWord 0b1000010001011110 = some (.shiftLeft 4 5) := by decide
theorem test_decode_skipNeReg : decodeWord 0b1001000100100000 = some (.skipNeReg 1 2 0) := by decide
theorem test_decode_loadIndex : decodeWord 0b1010001100000000 = some (.loadIndex 0x300) := by decide
theorem test_decode_jumpPlusV0 : decodeWord 0b1011111111111111 = some (.jumpPlusV0 0xFFF) := by decide
theorem test_decode_random : decodeWord 0b1100000000001111 = some (.random 0 0x0F) := by decide
theorem test_decode_skipKeyPressed : decodeWord 0b1110001110011110 = some (.skipKeyPressed 3) := by decide
theorem test_decode_skipKeyNotPressed : decodeWord 0b1110001110100001 = some (.skipKeyNotPressed 3) := by decide
theorem test_decode_drawSprite : decodeWord 0b1101000000010010 = some (.drawSprite 0 1 2) := by decide
theorem test_decode_loadVxDelay : decodeWord 0b1111011000000111 = some (.loadVxDelay 6) := by decide
theorem test_decode_loadVxKey : decodeWord 0b1111001000001010 = some (.loadVxKey 2) := by decide
theorem test_decode_loadDelayVx : decodeWord 0b1111000100010101 = some (.loadDelayVx 1) := by decide
theorem test_decode_loadSoundVx : decodeWord 0b1111000100011000 = some (.loadSoundVx 1) := by decide
theorem test_decode_addIndexVx : decodeWord 0b1111001100011110 = some (.addIndexVx 3) := by decide
theorem test_decode_loadFontVx : decodeWord 0b1111001000101001 = some (.loadFontVx 2) := by decide
theorem test_decode_storeBCD : decodeWord 0b1111000000110011 = some (.storeBCD 0) := by decide
theorem test_decode_storeRegisters : decodeWord 0b1111001101010101 = some (.storeRegisters 3) := by decide
theorem test_decode_loadRegisters : decodeWord 0b1111111101100101 = some (.loadRegisters 0xF) := by decide

/-- D-4, D-5, D-6: the low nibble of families 5 and 9 under both masks. -/
theorem test_decode_mask59 :
    decodeWordFor .fine 0x5121 = none ∧ decodeWordFor .coarse 0x5121 = some (.skipEqReg 1 2 1) ∧
    decodeWordFor .fine 0x9121 = none ∧ decodeWordFor .coarse 0x9121 = some (.skipNeReg 1 2 1) := by decide

/-- D-1, D-2, D-7, D-8, D-9: illegal opcodes. -/
theorem test_decode_illegal :
    decodeWord 0x0000 = none ∧ decodeWord 0x0123 = none ∧ decodeWord 0x8008 = none ∧ decodeWord 0xE19F = none ∧
    decodeWord 0xF0FF = none := by decide

/-- The first byte is bits 15 to 8 (R42, R43). -/
theorem test_decode_bytes : decode [0x62, 0x2A, 0x12] = .ok (.loadByte 2 0x2A, [0x12]) := rfl

/-- One byte is no instruction (R60). -/
theorem test_decode_truncated : decode [0x62] = .error .truncated := rfl

/-! ### Fetch and decode (spec/95_test_vectors.md 2.1) -/

/-- D-1. -/
theorem test_zero_opcode :
    seen (fun t => t.halt) (run State.reset 0x0000) =
      some (.faulted .decodeFailure 0x200 (some 0x0000) none) := by decide

/-- D-7. -/
theorem test_illegal_opcode :
    seen (fun t => t.halt) (run State.reset 0x8008) =
      some (.faulted .decodeFailure 0x200 (some 0x8008) none) := by decide

/-- D-11. -/
theorem test_fetch_at_the_end :
    seen (fun t => t) (run { State.reset with pc := 0xFFE } 0x1FFE) =
      some (({ State.reset with pc := 0xFFE, boot := false } : State).withFetchWord 16 0x1FFE) := by decide

/-- D-12. -/
theorem test_fetch_past_the_end :
    seen (fun t => t.halt) (step { State.reset with pc := 0xFFF }) =
      some (.faulted .addressOutOfBounds 0xFFF none none) := by decide

/-- D-13. -/
theorem test_fetch_outside :
    seen (fun t => (t.halt, t.pc)) (step { State.reset with pc := 0x1000 }) =
      some (.faulted .addressOutOfBounds 0x1000 none none, 0x1000) := by decide

/-- D-15. -/
theorem test_odd_pc :
    seen (fun t => (t.reg 0, t.pc)) (run { State.reset with pc := 0x201 } 0x602A) = some (0x2A, 0x203) := by decide

/-! ### Control transfer (2.2) -/

/-- C-1. -/
theorem test_jump :
    seen (fun t => t.pc) (run State.reset 0x1208) = some 0x208 := by decide

/-- C-3. -/
theorem test_call :
    seen (fun t => (t.sp, t.stack[0], t.pc)) (run State.reset 0x2300) = some (0, 0x202, 0x300) := by decide

/-- C-5. -/
theorem test_call_full :
    seen (fun t => (t.halt, t.pc, t.sp)) (run { State.reset with sp := 15 } 0x2300) =
      some (.faulted .stackOverflow 0x200 (some 0x2300) none, 0x200, 15) := by decide

/-- C-7, C-6. -/
theorem test_return_pops :
    (seen (fun t => (t.pc, t.sp)) (run { State.reset with sp := 3, stack := State.reset.stack.set 3 0x456 } 0x00EE) =
      some (0x456, 2)) ∧
    (seen (fun t => (t.pc, t.sp)) (run { State.reset with sp := 0, stack := State.reset.stack.set 0 0x302 } 0x00EE) =
      some (0x302, 0xFF)) := by decide

/-- C-9. -/
theorem test_jumpPlusV0 :
    seen (fun t => t.pc) (run (fresh [(0, 4)]) 0xB300) = some 0x304 := by decide

/-- C-11. -/
theorem test_jumpPlusV0_largest :
    seen (fun t => t.pc) (run (fresh [(0, 0xFF)]) 0xBFFF) = some 0x10FE := by decide

/-- C-8. -/
theorem test_return_empty :
    seen (fun t => (t.halt, t.pc)) (run State.reset 0x00EE) =
      some (.faulted .stackUnderflow 0x200 (some 0x00EE) none, 0x200) := by decide

/-! ### Skips (2.3) -/

/-- K-1. -/
theorem test_skipEqByte :
    seen (fun t => t.pc) (run (fresh [(3, 0x10)]) 0x3310) = some 0x204 := by decide

/-- K-2. -/
theorem test_skipEqByte_not :
    seen (fun t => t.pc) (run (fresh [(3, 0x11)]) 0x3310) = some 0x202 := by decide

/-- K-3. -/
theorem test_skipNeByte_not :
    seen (fun t => t.pc) (run (fresh [(3, 0x10)]) 0x4310) = some 0x202 := by decide

/-- K-4. -/
theorem test_skipNeByte :
    seen (fun t => t.pc) (run (fresh [(3, 0x11)]) 0x4310) = some 0x204 := by decide

/-- K-5. -/
theorem test_skipEqReg :
    seen (fun t => t.pc) (run (fresh [(1, 7), (2, 7)]) 0x5120) = some 0x204 := by decide

/-- K-6. -/
theorem test_skipEqReg_not :
    seen (fun t => t.pc) (run (fresh [(1, 7), (2, 8)]) 0x5120) = some 0x202 := by decide

/-- K-8. -/
theorem test_skipNeReg :
    seen (fun t => t.pc) (run (fresh [(1, 7), (2, 8)]) 0x9120) = some 0x204 := by decide

/-- K-9. -/
theorem test_skipNeReg_same :
    seen (fun t => t.pc) (run (fresh [(1, 7)]) 0x9110) = some 0x202 := by decide

/-- K-15. -/
theorem test_skipKeyPressed :
    seen (fun t => (t.pc, t.lastKey)) (run { fresh [(3, 5)] with keys := 0x20, lastKey := 5 } 0xE39E) =
      some (0x204, 5) := by decide

/-- K-14. -/
theorem test_skipKeyPressed_index :
    seen (fun t => t.halt) (run (fresh [(0, 0x10)]) 0xE09E) =
      some (.faulted .keyIndexOutOfRange 0x200 (some 0xE09E) (some 0x10)) := by decide

/-- K-12. -/
theorem test_skipKeyNotPressed_not :
    seen (fun t => t.pc) (run { fresh [(3, 5)] with keys := 0x20 } 0xE3A1) = some 0x202 := by decide

/-- K-13. -/
theorem test_skipKeyNotPressed :
    seen (fun t => t.pc) (run { fresh [(3, 5)] with keys := 0x10 } 0xE3A1) = some 0x204 := by decide

/-! ### Loads, arithmetic and logic (2.4, 2.5) -/

/-- A-1. -/
theorem test_loadByte :
    seen (fun t => (t.reg 2, t.pc)) (run State.reset 0x622A) = some (0x2A, 0x202) := by decide

/-- A-2. -/
theorem test_addByte_no_flag :
    seen (fun t => (t.reg 2, t.reg 15)) (run (fresh [(2, 0xF0), (15, 0x77)]) 0x7220) = some (0x10, 0x77) := by decide

/-- A-4. -/
theorem test_loadReg :
    seen (fun t => (t.reg 1, t.reg 7)) (run (fresh [(7, 0x33)]) 0x8170) = some (0x33, 0x33) := by decide

/-- A-5. -/
theorem test_or :
    seen (fun t => (t.reg 1, t.reg 15)) (run (fresh [(1, 0x0C), (2, 0x0A), (15, 0x55)]) 0x8121) =
      some (0x0E, 0x55) := by decide

/-- A-6. -/
theorem test_and :
    seen (fun t => t.reg 1) (run (fresh [(1, 0x0C), (2, 0x0A)]) 0x8122) = some 0x08 := by decide

/-- A-7. -/
theorem test_xor :
    seen (fun t => t.reg 1) (run (fresh [(1, 0x0C), (2, 0x0A)]) 0x8123) = some 0x06 := by decide

/-- S2. -/
theorem test_addReg_carry :
    seen (fun t => (t.reg 1, t.reg 15, t.pc)) (run (fresh [(1, 0xFF), (2, 0x01)]) 0x8124) =
      some (0x00, 1, 0x202) := by decide

/-- F-9, F-10. -/
theorem test_addReg_vf_operand :
    (seen (fun t => t.reg 15) (run (fresh [(15, 0xFF), (1, 0x02)]) 0x8F14) = some 0x01) ∧
    (seen (fun t => (t.reg 1, t.reg 15)) (run (fresh [(1, 0xFF), (15, 0x01)]) 0x81F4) = some (0x00, 1)) := by decide

/-- S5, A-12. -/
theorem test_subReg_values :
    (seen (fun t => (t.reg 1, t.reg 15)) (run (fresh [(1, 3), (2, 5)]) 0x8125) = some (0xFE, 0)) ∧
    (seen (fun t => (t.reg 1, t.reg 15)) (run (fresh [(1, 5), (2, 5), (15, 9)]) 0x8125) = some (0, 0)) := by decide

/-- A-13, A-14. -/
theorem test_subnReg_values :
    (seen (fun t => (t.reg 1, t.reg 15)) (run (fresh [(1, 3), (2, 5)]) 0x8127) = some (0x02, 1)) ∧
    (seen (fun t => (t.reg 1, t.reg 15)) (run (fresh [(1, 5), (2, 3)]) 0x8127) = some (0xFE, 0)) := by decide

/-- S6, D-10. -/
theorem test_shiftRight_values :
    (seen (fun t => (t.reg 1, t.reg 15)) (run (fresh [(1, 3)]) 0x8106) = some (0x01, 1)) ∧
    (seen (fun t => (t.reg 0xA, t.reg 15, t.reg 0xB)) (run (fresh [(0xA, 0x81), (0xB, 0x77)]) 0x8AB6) =
      some (0x40, 1, 0x77)) := by decide

/-- A-20. -/
theorem test_shiftLeft :
    seen (fun t => (t.reg 4, t.reg 15, t.reg 5)) (run (fresh [(4, 0x81), (5, 0)]) 0x845E) =
      some (0x02, 1, 0) := by decide

/-- A-21, A-22, A-23. -/
theorem test_random :
    (seen (fun t => (t.reg 0, t.pc)) (randomWith 0xB7 0 0x0F State.reset) = some (0x07, 0x202)) ∧
    (seen (fun t => t.reg 0) (randomWith 0xB7 0 0x00 State.reset) = some 0x00) ∧
    (seen (fun t => t.reg 0) (randomWith 0xB7 0 0xFF State.reset) = some 0xB7) := by decide

/-- F-1, F-2, F-5. -/
theorem test_subReg_vf_operand :
    (seen (fun t => t.reg 15) (subRegWith .snapshot 15 1 (fresh [(15, 0x10), (1, 0x03)])) = some 0x0D) ∧
    (seen (fun t => t.reg 15) (subRegWith .sequential 15 1 (fresh [(15, 0x10), (1, 0x03)])) = some 0xFE) ∧
    (seen (fun t => (t.reg 1, t.reg 15)) (subRegWith .snapshot 1 15 (fresh [(1, 0x10), (15, 0x03)])) = some (0x0D, 1)) ∧
    (seen (fun t => (t.reg 1, t.reg 15)) (subRegWith .sequential 1 15 (fresh [(1, 0x10), (15, 0x03)])) =
      some (0x0F, 1)) ∧
    (seen (fun t => t.reg 15) (subRegWith .snapshot 15 15 (fresh [(15, 0x33)])) = some 0) ∧
    (seen (fun t => t.reg 15) (subRegWith .sequential 15 15 (fresh [(15, 0x33)])) = some 0) := by decide

/-- F-3, F-4. -/
theorem test_subnReg_vf_operand :
    (seen (fun t => t.reg 15) (subnRegWith .snapshot 15 1 (fresh [(15, 0x03), (1, 0x10)])) = some 0x0D) ∧
    (seen (fun t => t.reg 15) (subnRegWith .sequential 15 1 (fresh [(15, 0x03), (1, 0x10)])) = some 0x0F) ∧
    (seen (fun t => (t.reg 1, t.reg 15)) (subnRegWith .snapshot 1 15 (fresh [(1, 0x03), (15, 0x10)])) =
      some (0x0D, 1)) ∧
    (seen (fun t => (t.reg 1, t.reg 15)) (subnRegWith .sequential 1 15 (fresh [(1, 0x03), (15, 0x10)])) =
      some (0xFE, 1)) := by decide

/-- F-6. -/
theorem test_shiftRight_vf :
    (seen (fun t => t.reg 15) (shiftRightWith .snapshot 15 (fresh [(15, 0x05)])) = some 0x02) ∧
    (seen (fun t => t.reg 15) (shiftRightWith .sequential 15 (fresh [(15, 0x05)])) = some 0x00) := by decide

/-- F-8. -/
theorem test_shiftLeft_vf :
    (seen (fun t => t.reg 15) (shiftLeftWith .snapshot 15 (fresh [(15, 0xC1)])) = some 0x82) ∧
    (seen (fun t => t.reg 15) (shiftLeftWith .sequential 15 (fresh [(15, 0xC1)])) = some 0x02) := by decide

/-! ### Index register and memory (2.6) -/

/-- I-1. -/
theorem test_loadIndex :
    seen (fun t => t.i) (run State.reset 0xA300) = some 0x300 := by decide

/-- I-2. -/
theorem test_addIndexVx :
    seen (fun t => (t.i, t.reg 15)) (run (withI 0x0FF0 [(3, 0x20), (15, 0x55)]) 0xF31E) =
      some (0x1010, 0x55) := by decide

/-- I-4. -/
theorem test_addIndexVx_overflow :
    seen (fun t => (t.halt, t.i)) (run (withI 0xFFFF [(1, 1)]) 0xF11E) =
      some (.faulted .indexOverflow 0x200 (some 0xF11E) (some 0x10000), 0xFFFF) := by decide

/-- I-6. -/
theorem test_loadFontVx :
    seen (fun t => t.i) (run (fresh [(0, 0xFF)]) 0xF029) = some 0x4FB := by decide

/-- I-7. -/
theorem test_storeBCD :
    seen (fun t => (t.readMem 0x300, t.readMem 0x301, t.readMem 0x302, t.i)) (run (withI 0x300 [(0, 0xFE)]) 0xF033) =
      some (2, 5, 4, 0x300) := by decide

/-- I-11. -/
theorem test_storeBCD_past_the_end :
    seen (fun t => (t.halt, t.readMem 0xFFE)) (run (withI 0xFFE [(0, 123)]) 0xF033) =
      some (.faulted .dataAddressOutOfBounds 0x200 (some 0xF033) (some 0x1000), 0) := by decide

/-- I-12. -/
theorem test_storeRegisters :
    seen (fun t => (t.readMem 0x400, t.readMem 0x403, t.readMem 0x404, t.i))
      (run (withI 0x400 [(0, 1), (1, 2), (2, 3), (3, 4), (4, 9)]) 0xF355) =
      some (1, 4, 0, 0x400) := by decide

/-- I-15. -/
theorem test_storeRegisters_past_the_end :
    seen (fun t => t.halt) (run (withI 0xFF1 []) 0xFF55) =
      some (.faulted .dataAddressOutOfBounds 0x200 (some 0xFF55) (some 0x1000)) := by decide

/-- I-17. -/
theorem test_loadRegisters :
    seen (fun t => (t.reg 0, t.reg 1, t.reg 2, t.reg 15))
      (run (withBytes [(0x400, 1), (0x401, 2), (0x40F, 0x0F)] (withI 0x400 [(2, 9)])) 0xFF65) =
      some (1, 2, 0, 0x0F) := by decide

/-- I-16. -/
theorem test_loadRegisters_outside :
    seen (fun t => t.halt) (run (withI 0x1010 []) 0xF065) =
      some (.faulted .dataAddressOutOfBounds 0x200 (some 0xF065) (some 0x1010)) := by decide

/-! ### Display (2.7) -/

/-- G-1. -/
theorem test_clearScreen :
    seen (fun t => (t.pixel 7 5, t.pc)) (run (State.reset.setPixel 7 5 true) 0x00E0) = some (false, 0x202) := by decide

/-- G-7, S13 and G-6, the wrap of the columns, G-3. -/
theorem test_drawSprite_plots :
    (seen (fun t => (t.pixel 0 0, t.pixel 1 0, t.pixel 3 0, t.pixel 4 0, t.reg 15))
      (run ((withBytes [(0x300, 0xF0)] (withI 0x300 [])).setPixel 0 0 true) 0xD011) =
      some (false, true, true, false, 1)) ∧
    (seen (fun t => (t.pixel 63 0, t.pixel 0 0, t.pixel 1 0, t.reg 15))
      (run (withBytes [(0x300, 0xC0)] (withI 0x300 [(0, 63), (15, 1)])) 0xD011) =
      some (true, true, false, 0)) ∧
    (seen (fun t => (t.reg 15, t.pc)) (run (withI 0xFFFF [(15, 1)]) 0xD010) = some (0, 0x202)) := by decide

/-- G-4, F-11. -/
theorem test_drawSprite_stops_and_vf :
    (seen (fun t => t.halt) (run (withI 0xFFF []) 0xD012) =
      some (.faulted .dataAddressOutOfBounds 0x200 (some 0xD012) (some 0x1000))) ∧
    (seen (fun t => (t.pixel 0 0, t.pixel 2 0, t.pixel 10 0, t.pixel 11 0, t.reg 15))
      (drawSpriteWith .snapshot 15 0 1 ((withBytes [(0x300, 0xC0)] (withI 0x300 [(15, 10)])).setPixel 0 0 true)) =
      some (true, false, true, true, 0)) ∧
    (seen (fun t => (t.pixel 0 0, t.pixel 2 0, t.pixel 10 0, t.pixel 11 0, t.reg 15))
      (drawSpriteWith .sequential 15 0 1 ((withBytes [(0x300, 0xC0)] (withI 0x300 [(15, 10)])).setPixel 0 0 true)) =
      some (false, true, false, false, 1)) := by decide

/-! ### Timers, keys, reset and load (2.8, 2.9) -/

/-- T-1. -/
theorem test_loadVxDelay :
    seen (fun t => (t.reg 6, t.pc)) (run { State.reset with dt := 0x3C } 0xF607) = some (0x3C, 0x202) := by decide

/-- T-2. -/
theorem test_loadDelayVx :
    seen (fun t => t.dt) (run (fresh [(1, 0x3C)]) 0xF115) = some 0x3C := by decide

/-- T-3. -/
theorem test_loadSoundVx :
    seen (fun t => (t.st, t.soundOn)) (run (fresh [(1, 2)]) 0xF118) = some (2, true) := by decide

/-- T-5. -/
theorem test_loadSoundVx_zero :
    seen (fun t => (t.st, t.soundOn)) (run State.reset 0xF118) = some (0, true) := by decide

/-- T-6. -/
theorem test_loadVxKey :
    seen (fun t => (t.reg 2, t.lastKey, t.pc)) (run { State.reset with pc := 0x210, lastKey := 7 } 0xF20A) =
      some (7, 255, 0x212) := by decide

/-- T-7. -/
theorem test_loadVxKey_waits :
    seen (fun t => (t.reg 2, t.lastKey, t.pc)) (run { State.reset with pc := 0x210 } 0xF20A) =
      some (0, 255, 0x210) := by decide

/-- S12, T-10. -/
theorem test_tick :
    seen (fun t => (t.dt, t.st, t.soundOn)) (step { State.reset with dt := 3, st := 1, soundOn := true, pending := [.tick] }) =
      some (2, 0, false) := by decide

/-- S11, T-9. -/
theorem test_tick_at_zero :
    seen (fun t => (t.dt, t.st, t.soundOn)) (step { State.reset with soundOn := true, pending := [.tick] }) =
      some (0, 0, true) := by decide

/-- R-1. -/
theorem test_reset_call :
    seen (fun t => (t.halt, t.pc, t.readMem 5, t.pixel 1 1, t.soundOn)) (step ((withBytes [(5, 9)]
        { State.reset with
          halt := .faulted .decodeFailure 0x300 none none, pc := 0x300, soundOn := true,
          pending := [.reset] }).setPixel 1 1 true)) =
      some (.running, 0x200, 0, true, true) := by decide

/-- R-2. -/
theorem test_step_before_load :
    seen (fun t => t.halt) (step State.reset) = some (.faulted .decodeFailure 0x200 (some 0x0000) none) := by decide

/-- R-3: an image of 4095 bytes is refused. -/
theorem test_load_short (image : List Byte) (h : image.length = 4095) :
    step { State.reset with pending := [.load image] } = .refused .imageSize := by
  simp [step, transact, perform, loadCall, State.reset, Config.memSize, h]

/-- D-14. -/
theorem test_halted_machine :
    step { State.reset with halt := .faulted .decodeFailure 0x200 none none } = .fault .halted := rfl

/-- A key above 0xF is against the host's duty (R260). -/
theorem test_last_key_duty :
    step { State.reset with pending := [.setLastKey 16] } = .refused .lastKeyValue := rfl

/-- The codes of R200. -/
theorem test_fault_codes :
    [FaultKind.decodeFailure, .stackUnderflow, .stackOverflow, .addressOutOfBounds, .dataAddressOutOfBounds,
      .keyIndexOutOfRange, .indexOverflow].map FaultKind.code = [1, 2, 3, 4, 5, 6, 7] := by decide

/-! ### Witnesses: for each statement with hypotheses, inputs that meet them -/

theorem witness_DecodeOfEncode : Instr.WellFormed (.addReg 1 2) ∧ Instr.WellFormed (.skipEqReg 1 2 0) := ⟨rfl, rfl⟩

theorem witness_EncodeOfDecode : decodeWord 0x8124 = some (.addReg 1 2) := by decide

theorem witness_NoOpcodeMatchesTwoEntries (m : Mask59) : ∀ e ∈ catalog, (0x0000 : Word) &&& e.maskFor m ≠ e.pattern := by
  cases m <;> decide

theorem witness_DecodedArguments : decodeWord 0xD012 = some (.drawSprite 0 1 2) := by decide

theorem witness_Fetch_inside : ({ State.reset with pc := 0xFFE } : State).pc.toNat + 1 ≤ 0xFFF := by decide

theorem witness_Fetch_outside : 0xFFF < ({ State.reset with pc := 0xFFF } : State).pc.toNat + 1 ∧
    ({ State.reset with pc := 0xFFF } : State).halt = .running := by decide

/-- A state whose next instruction is LoadByte V2, 0x2A at the last place a fetch succeeds. -/
def ready : State := ({ State.reset with pc := 0xFFE } : State).withFetchWord 16 0x622A

theorem witness_StepRuns : ready.halt = .running ∧ ready.pc.toNat ≤ 0xFFE ∧ ready.pending = [] ∧
    decode [ready.readMem ready.pc.toNat, ready.readMem (ready.pc.toNat + 1)] = .ok (.loadByte 2 0x2A, []) :=
  ⟨rfl, by decide, rfl, rfl⟩

theorem witness_StepRuns_call : ({ ready with pending := [.step 0x20] } : State).pending = .step 0x20 :: [] := rfl

theorem witness_Unmatched : State.reset.halt = .running ∧ State.reset.fetch = some 0x0000 ∧
    ∀ e ∈ catalog, (0x0000 : Word) &&& e.maskFor Config.mask59 ≠ e.pattern :=
  ⟨rfl, rfl, witness_NoOpcodeMatchesTwoEntries _⟩

/-- A halted machine. -/
def halted : State := { State.reset with halt := .faulted .decodeFailure 0x200 (some 0x0000) none }

theorem witness_Halted : halted.halt ≠ .running := by decide

theorem witness_DrawSprite_no_rows : (0 : Reg) ≠ 15 ∧ (1 : Reg) ≠ 15 ∧
    ((0 : Nibble).toNat = 0 ∨ (withI 0xFFFF []).i.toNat + (0 : Nibble).toNat ≤ 0x1000) := by decide

theorem witness_DrawSprite_last_row : (14 : Reg) ≠ 15 ∧ (14 : Reg) ≠ 15 ∧
    ((1 : Nibble).toNat = 0 ∨ (withI 0xFFF []).i.toNat + (1 : Nibble).toNat ≤ 0x1000) := by decide

theorem witness_DrawSprite_past_the_end :
    (2 : Nibble).toNat ≠ 0 ∧ 0x1000 < (withI 0xFFF []).i.toNat + (2 : Nibble).toNat := by decide

theorem witness_Return_empty : State.reset.sp = 0xFF := rfl

theorem witness_Return : ({ State.reset with sp := 0 } : State).sp.toNat < 16 ∧
    ({ State.reset with sp := 15 } : State).sp.toNat < 16 := by decide

theorem witness_Call : State.reset.sp.toNat = 0xFF ∧ ({ State.reset with sp := 14 } : State).sp.toNat < 15 := by decide

theorem witness_Call_full : ({ State.reset with sp := 15 } : State).sp.toNat ≠ 0xFF ∧
    15 ≤ ({ State.reset with sp := 15 } : State).sp.toNat := by decide

theorem witness_ReturnAfterCall : State.reset.sp = 0xFF ∧
    exec (.call 0x300) State.reset = .next ((State.reset.pushAt 0 (by decide) 0x202).setPc 0x300) := ⟨rfl, rfl⟩

theorem witness_KeySkips : ((fresh [(3, 15)]).reg 3).toNat ≤ 15 ∧ 15 < ((fresh [(3, 16)]).reg 3).toNat := by decide

theorem witness_SubReg : (5 : Nat) = ((fresh [(1, 5), (2, 3)]).reg 1).toNat ∧
    (3 : Nat) = ((fresh [(1, 5), (2, 3)]).reg 2).toNat ∧ (1 : Nat) = if 3 < 5 then 1 else 0 := by decide

theorem witness_SubnReg : (5 : Nat) = ((fresh [(15, 5)]).reg 15).toNat ∧
    (5 : Nat) = ((fresh [(15, 5)]).reg 15).toNat ∧ (0 : Nat) = if 5 < 5 then 1 else 0 := by decide

theorem witness_AddIndexVx : (withI 0xFFFF [(1, 0)]).i.toNat + ((withI 0xFFFF [(1, 0)]).reg 1).toNat ≤ 0xFFFF ∧
    0xFFFF < (withI 0xFFFF [(1, 1)]).i.toNat + ((withI 0xFFFF [(1, 1)]).reg 1).toNat := by decide

theorem witness_StoreBCD : Memory.wf (withI 0xFFD []).mem = true ∧ (withI 0xFFD []).i.toNat + 2 ≤ 0xFFF ∧
    Memory.wf (withI 0xFFE []).mem = true ∧ 0xFFF < (withI 0xFFE []).i.toNat + 2 := by decide

theorem witness_StoreRegisters : Memory.wf (withI 0xFF0 []).mem = true ∧ (withI 0xFF0 []).i.toNat + (15 : Reg).toNat ≤ 0xFFF ∧
    Memory.wf (withI 0xFF1 []).mem = true ∧ 0xFFF < (withI 0xFF1 []).i.toNat + (15 : Reg).toNat := by decide

theorem witness_LoadRegisters : (withI 0xFFF []).i.toNat + (0 : Reg).toNat ≤ 0xFFF ∧
    0xFFF < (withI 0x1000 []).i.toNat + (0 : Reg).toNat := by decide

theorem witness_RestoresStoredRange : Memory.wf (withI 0x400 [(0, 7)]).mem = true ∧
    (withI 0x400 [(0, 7)]).i.toNat + (0 : Reg).toNat ≤ 0xFFF ∧
    exec (.storeRegisters 0) (withI 0x400 [(0, 7)]) = .next ((withI 0x400 [(0, 7)]).writeMem 0x400 7).advance :=
  ⟨rfl, by decide, rfl⟩

theorem witness_StoreIsSeen : Memory.wf (withI 0x202 []).mem = true ∧ (withI 0x202 []).i = (withI 0x202 []).pc + 2 ∧
    (withI 0x202 []).pc.toNat + 4 ≤ 0xFFF ∧ 1 ≤ (1 : Reg).toNat ∧ (withI 0x202 []).i.toNat + (1 : Reg).toNat ≤ 0xFFF := by
  decide

theorem witness_LoadVxKey : State.reset.lastKey = 255 ∧ ({ State.reset with lastKey := 7 } : State).lastKey ≠ 255 := by
  decide

theorem witness_Tick : State.reset.halt = .running ∧ halted.halt ≠ .running := by decide

theorem witness_Load : State.reset.boot = true ∧ State.reset.halt = .running ∧
    (List.replicate 4096 (0 : Byte)).length = 4096 := ⟨rfl, rfl, List.length_replicate⟩

theorem witness_Load_refused : ([] : List Byte).length ≠ 4096 ∧ ({ State.reset with boot := false } : State).boot = false :=
  ⟨by decide, rfl⟩

theorem witness_HostWritesLastKey : ((0xF : Byte).toNat ≤ 0xF) ∧ (0xF < (0x10 : Byte).toNat ∧ (0x10 : Byte) ≠ 255) := by decide

theorem witness_EndState : State.ended (State.reset.withFetchWord 16 0x1200) ∧
    (State.reset.withFetchWord 16 0x1200).pending = [] := ⟨⟨rfl, by decide, rfl⟩, rfl⟩

/-- The end at the last address a fetch accepts, with a `step(keys)` to come. -/
def atEnd : State :=
  { ({ State.reset with pc := 0xFFE } : State).withFetchWord 16 0x1FFE with pending := [.step 0x20, .tick] }

theorem witness_EndState_call : State.ended atEnd ∧ atEnd.pending = .step 0x20 :: [.tick] :=
  ⟨⟨rfl, by decide, rfl⟩, rfl⟩

/-- Each of the last clause's cases answers a next state: a faulting step, `reset`, a `step`, `tick`, a host write. -/
theorem witness_BootPhase :
    seen (fun t => t.boot) (step State.reset) = some false ∧
    seen (fun t => t.boot) (step { halted with boot := false, pending := [.reset] }) = some true ∧
    seen (fun t => t.boot) (step atEnd) = some false ∧
    seen (fun t => t.boot) (step { State.reset with pending := [.tick] }) = some false ∧
    seen (fun t => t.boot) (step { State.reset with pending := [.setLastKey 15] }) = some true := by decide

/-- A load of 4096 bytes right after reset. -/
theorem load_runs (image : List Byte) (h : image.length = 4096) :
    step { State.reset with pending := [.load image] } = .next { State.reset with mem := Memory.ofImage 0 image } := by
  simp [step, transact, perform, loadCall, State.reset, Config.memSize, h]

theorem witness_BootPhase_load : step { State.reset with pending := [.load (List.replicate 4096 0)] } =
    .next { State.reset with mem := Memory.ofImage 0 (List.replicate 4096 0) } := load_runs _ List.length_replicate

/-- The invariant at reset, for the witness of the invariant's statement. -/
theorem witness_Inv : State.reset.Inv :=
  ⟨by decide, by decide, by decide, rfl, by decide, fun _ => rfl, fun _ _ _ _ h => nomatch h⟩

theorem witness_EveryStep :
    step State.reset = .next { State.reset with boot := false, halt := .faulted .decodeFailure 0x200 (some 0x0000) none } :=
  rfl

theorem witness_FaultsChangeOnlyHalt : State.reset.halt = .running ∧
    ∃ t, step { State.reset with pending := [.step 0] } = .next t ∧ t.halt ≠ .running := ⟨rfl, _, rfl, by decide⟩

/-- For the whole-machine rules: an instruction that answers a next state and writes, stores, skips and reads none of what
the rules name. -/
theorem witness_WholeMachine : exec (.jump 0x300) State.reset = .next (State.reset.setPc 0x300) ∧
    Instr.mayWrite 1 (.jump 0x300) = false ∧ ¬ storesMemory (.jump 0x300) ∧ ¬ writesIndex (.jump 0x300) ∧
    ¬ writesSp (.jump 0x300) ∧ ¬ writesScreen (.jump 0x300) ∧ ¬ readsKeys (.jump 0x300) ∧
    (State.reset.setPc 0x300).halt = .running :=
  ⟨rfl, rfl, by simp [storesMemory], by simp [writesIndex], by simp [writesSp], by simp [writesScreen],
    by simp [readsKeys], rfl⟩

end Sys2Proof.Tests
end

section
/-! The reset values (spec/10_state.md R35, spec/70_reset_and_hazards.md R250). The power-on state is a fixed point of
`resetCall`, so the core's values are proved once, of `resetCall`, and serve both halves of the statement. -/

namespace Sys2Proof.Machine

/-! ### What `reset()` leaves in the core -/

@[simp] theorem resetCall_readMem (s : State) (a : Nat) : (resetCall s).readMem a = 0 := rfl

@[simp] theorem resetCall_reg (s : State) (r : Reg) : (resetCall s).reg r = 0 :=
  Vector.getElem_replicate r.isLt

@[simp] theorem resetCall_stack (s : State) (k : Nat) (h : k < 16) : (resetCall s).stack[k] = 0 :=
  Vector.getElem_replicate h

/-- Every core element has the value R35 lists for it. -/
def CoreHasResetValues (t : State) : Prop :=
  (∀ a, t.readMem a = 0) ∧ (∀ r, t.reg r = 0) ∧ t.pc = 0x200 ∧ t.i = 0 ∧ t.dt = 0 ∧ t.st = 0 ∧ t.sp = 0xFF ∧
    (∀ (k : Nat) (h : k < 16), t.stack[k] = 0) ∧ t.halt = .running

/-- `reset()` gives the core its R35 values whatever the state was. -/
theorem resetCall_coreHasResetValues (s : State) : CoreHasResetValues (resetCall s) :=
  ⟨resetCall_readMem s, resetCall_reg s, rfl, rfl, rfl, rfl, rfl, resetCall_stack s, rfl⟩

/-! ### The power-on state -/

/-- At power-on `reset()` has nothing left to change. -/
theorem resetCall_reset : resetCall State.reset = State.reset := rfl

theorem reset_coreHasResetValues : CoreHasResetValues State.reset :=
  resetCall_reset ▸ resetCall_coreHasResetValues State.reset

/-- Every pixel is dark at power-on. -/
theorem reset_pixel (px : Fin 64) (py : Fin 32) : State.reset.pixel px py = false := by
  simp [State.pixel, State.reset]

/-- Settles O44: a pending `reset()` is answered by `resetCall`, which has the core's values and keeps the
collaborators; the power-on state is such an answer itself. -/
theorem resetValuesAreTheListedOnes : Obligations.ResetValuesAreTheListedOnes := by
  refine ⟨⟨reset_coreHasResetValues, reset_pixel, rfl, rfl, rfl⟩, fun s rest => ?_⟩
  have answer := step_of_call s .reset rest
  exact ⟨_, answer, resetCall_coreHasResetValues _, rfl, rfl, rfl, rfl⟩

end Sys2Proof.Machine
end

section
/-! Fetch (spec/20_memory.md R42): the opcode as a number, and the step of a running machine whose fetch fails. -/

namespace Sys2Proof.Machine

/-- The composed opcode as the number R42 writes. -/
theorem wordOfBytes_eq_ofNat (hi lo : Byte) :
    wordOfBytes hi lo = BitVec.ofNat 16 (hi.toNat * 0x100 + lo.toNat) := by
  rw [← wordOfBytes_toNat, BitVec.ofNat_toNat, BitVec.setWidth_eq]

/-- A running machine whose fetch fails raises `AddressOutOfBounds`, with no opcode to record. -/
theorem stepCall_of_fetch_eq_none {s : State} (running : s.halt = .running) (noFetch : s.fetch = none) :
    stepCall s = raise .addressOutOfBounds none none { s with boot := false } := by
  rw [stepCall, if_pos running, noFetch]

/-- Settles O8: inside memory the two bytes are composed high byte first; past its end the pending `step(keys)` is an
instruction step whose fetch fails, so it answers `raise`, which writes `halt` alone. -/
theorem fetchIsBigEndianAndBounded : Obligations.FetchIsBigEndianAndBounded := by
  refine fun s => ⟨fun inside => ?_, fun outside running keys rest => ?_⟩
  · rw [fetch_of_inside (by omega), wordOfBytes_eq_ofNat]
  · have noFetch : State.fetch { s with pending := rest, keys := keys } = none := fetch_of_outside outside
    have answer := (step_of_call s (.step keys) rest).trans (stepCall_of_fetch_eq_none running noFetch)
    exact ⟨_, answer, rfl, rfl⟩

end Sys2Proof.Machine
end

section
/-! Matching in the catalog (spec/30_encoding.md R62, R64, R66): no opcode matches two entries, so the first hit the
decoder finds is the only one, and decoding is settled by any entry the opcode matches. -/

namespace Sys2Proof

/-! ### No opcode matches two entries (R64) -/

/-- No opcode matches both entries. -/
def Entry.Disjoint (m : Mask59) (e f : Entry) : Prop :=
  ∀ op : Word, ¬(op &&& e.maskFor m = e.pattern ∧ op &&& f.maskFor m = f.pattern)

theorem Entry.Disjoint.symm {m : Mask59} {e f : Entry} (h : e.Disjoint m f) : f.Disjoint m e :=
  fun op both => h op both.symm

/-- Two patterns that differ in a bit both masks keep share no opcode. -/
theorem Entry.disjoint_of_patterns_differ {m : Mask59} {e f : Entry}
    (differ : e.pattern &&& f.maskFor m ≠ f.pattern &&& e.maskFor m) : e.Disjoint m f := by
  rintro op ⟨he, hf⟩
  refine differ ?_
  calc e.pattern &&& f.maskFor m = op &&& e.maskFor m &&& f.maskFor m := by rw [he]
    _ = op &&& f.maskFor m &&& e.maskFor m := by ac_rfl
    _ = f.pattern &&& e.maskFor m := by rw [hf]

/-- Any two patterns of R68 differ in a bit both masks keep, under either `MASK_5_9`. -/
theorem catalog_patterns_differ (m : Mask59) :
    catalog.Pairwise fun e f => e.pattern &&& f.maskFor m ≠ f.pattern &&& e.maskFor m := by
  cases m <;> decide

theorem catalog_pairwise_disjoint (m : Mask59) : catalog.Pairwise (Entry.Disjoint m) :=
  (catalog_patterns_differ m).imp Entry.disjoint_of_patterns_differ

/-- Two entries that match one opcode are the same entry. -/
theorem catalog_match_unique {m : Mask59} {op : Word} {e f : Entry} (he : e ∈ catalog) (hf : f ∈ catalog)
    (hop : op &&& e.maskFor m = e.pattern) (hop' : op &&& f.maskFor m = f.pattern) : e = f := by
  by_contra hne
  have : Std.Symm (Entry.Disjoint m) := ⟨fun _ _ h => h.symm⟩
  exact (catalog_pairwise_disjoint m).forall he hf hne op ⟨hop, hop'⟩

/-! ### What the decoder answers (R66) -/

/-- An opcode decodes exactly when it matches an entry. -/
theorem decodeWordFor_eq_none_iff {m : Mask59} {op : Word} :
    decodeWordFor m op = none ↔ ∀ e ∈ catalog, op &&& e.maskFor m ≠ e.pattern := by
  rw [decodeWordFor, Option.map_eq_none_iff, List.find?_eq_none]
  exact forall₂_congr fun e he => not_congr (Entry.hits_iff (catalog_open59 e he) op)

/-- An opcode that matches an entry decodes to what the entry reads. -/
theorem decodeWordFor_of_match {m : Mask59} {op : Word} {e : Entry} (he : e ∈ catalog)
    (hop : op &&& e.maskFor m = e.pattern) : decodeWordFor m op = some (e.read op) := by
  rw [decodeWordFor]
  cases hfind : catalog.find? fun e => e.hits m op with
  | none =>
    have miss := List.find?_eq_none.mp hfind e he
    exact absurd ((Entry.hits_iff (catalog_open59 e he) op).mpr hop) miss
  | some f =>
    have hf : f ∈ catalog := List.mem_of_find?_eq_some hfind
    have hop' := (Entry.hits_iff (catalog_open59 f hf) op).mp (List.find?_some (p := fun e : Entry => e.hits m op) hfind)
    rw [catalog_match_unique he hf hop hop', Option.map_some]

/-- An instruction whose opcode matches its own row is what the opcode decodes to. -/
theorem decodeWord_encode_of_ownRow {i : Instr} (row : Laws.OwnRow.Statement i) (wf : i.WellFormed) :
    decodeWord (encode i) = some i := by
  obtain ⟨e, he, hits, hread⟩ := row wf
  rw [decodeWord, decodeWordFor_of_match he ((Entry.hits_iff (catalog_open59 e he) _).mp hits), hread]

/-- Settles O3: any two patterns differ in a bit that both masks keep, and the decoder's search fails exactly where no
entry matches. -/
theorem noOpcodeMatchesTwoEntries : Obligations.NoOpcodeMatchesTwoEntries :=
  fun m => ⟨catalog_pairwise_disjoint m, fun _ => decodeWordFor_eq_none_iff.mpr⟩

end Sys2Proof
end

section
/-! The shifts and their ignored field (spec/30_encoding.md R71). -/

namespace Sys2Proof

open Machine

/-- A four-nibble opcode as the number R61 writes. -/
theorem encXYN_eq_ofNat (t x y n : Nibble) :
    encXYN t x y n = BitVec.ofNat 16 (t.toNat * 0x1000 + n.toNat + x.toNat * 0x100 + y.toNat * 0x10) := by
  apply BitVec.eq_of_toNat_eq
  rw [encXYN_toNat, BitVec.toNat_ofNat]
  omega

theorem decodeWord_shiftRight (x y : Reg) :
    decodeWord (BitVec.ofNat 16 (0x8006 + x.toNat * 0x100 + y.toNat * 0x10)) = some (.shiftRight x y) := by
  have opcode : encode (.shiftRight x y) = _ := encXYN_eq_ofNat 0x8 x y 0x6
  exact opcode ▸ decodeWord_encode_of_ownRow (Laws.OwnRow.shiftRight x y) rfl

theorem decodeWord_shiftLeft (x y : Reg) :
    decodeWord (BitVec.ofNat 16 (0x800E + x.toNat * 0x100 + y.toNat * 0x10)) = some (.shiftLeft x y) := by
  have opcode : encode (.shiftLeft x y) = _ := encXYN_eq_ofNat 0x8 x y 0xE
  exact opcode ▸ decodeWord_encode_of_ownRow (Laws.OwnRow.shiftLeft x y) rfl

/-- Settles O7: both opcodes are `encode` of the shift whose ignored field is `y`, and the meaning is not given it. -/
theorem shiftsIgnoreY : Obligations.ShiftsIgnoreY :=
  ⟨fun x y => ⟨y, decodeWord_shiftRight x y⟩, fun x y => ⟨y, decodeWord_shiftLeft x y⟩, fun _ _ _ _ => ⟨rfl, rfl⟩⟩

end Sys2Proof
end

section
/-! The program counter (spec/30_encoding.md R76): one lemma per shape of next state, then each of the 34 kinds by the
shape its meaning has. -/

namespace Sys2Proof.Machine

/-! ### The shapes of a next state -/

/-- The default advance, whatever else the instruction did. -/
theorem pc_of_next_advance {s k t : State} (h : (.next k.advance : Result) = .next t) (hk : k.pc = s.pc) :
    t.pc = s.pc + 2 := by
  cases h
  rw [State.advance_pc, hk]

/-- A skip on a condition, said as the table says it. -/
theorem pc_of_next_skipIf {s t : State} {c : Bool} {p : Prop} [Decidable p] (hc : c = true ↔ p)
    (h : (.next (s.skipIf c) : Result) = .next t) : t.pc = if p then s.pc + 4 else s.pc + 2 := by
  cases h
  simp only [State.skipIf_pc, hc]

/-- A raised fault does not leave the machine running. -/
theorem not_running_of_raise {kind : FaultKind} {op : Option Word} {a : Option Nat} {s t : State}
    (h : raise kind op a s = .next t) : t.halt ≠ .running := by
  cases h
  exact Halt.noConfusion

/-- An instruction that checks its span and raises no fault advances. -/
theorem pc_of_withSpan {op : Word} {len : Nat} {s k t : State} (h : withSpan op len s k.advance = .next t)
    (hk : k.pc = s.pc) (running : t.halt = .running) : t.pc = s.pc + 2 := by
  obtain ⟨-, rfl⟩ | ⟨a, rfl⟩ := withSpan_cases h
  · exact pc_of_next_advance rfl hk
  · exact nomatch running

/-- A key skip that raises no fault skips when the key is in the wanted state. -/
theorem pc_of_skipOnKey {op : Word} {x : Reg} {want : Bool} {s t : State} (h : skipOnKey op x want s = .next t)
    (running : t.halt = .running) :
    t.pc = if s.keys.getLsbD (s.reg x).toNat = want then s.pc + 4 else s.pc + 2 := by
  by_cases key : (s.reg x).toNat < 16
  · rw [skipOnKey_of_key key] at h
    exact pc_of_next_skipIf beq_iff_eq h
  · rw [skipOnKey_of_no_key (by omega)] at h
    exact absurd running (not_running_of_raise h)

/-! ### Effects that leave the pc alone -/

theorem drawSprite_pc (ord : AliasOrder) (x y : Reg) (n : Nat) (s : State) : (drawSprite ord x y n s).pc = s.pc :=
  (congrArg State.pc (drawSprite_frame ord x y n s) :)

theorem storeRange_pc (n : Nat) (s : State) : (storeRange n s).pc = s.pc := 
  (congrArg State.pc (storeRange_frame n s) :)

theorem loadRange_pc (n : Nat) (s : State) : (loadRange n s).pc = s.pc := 
  (congrArg State.pc (loadRange_frame n s) :)

/-! ### Jump targets -/

theorem zextAddr_eq_ofNat (a : Addr) : zextAddr a = BitVec.ofNat 16 a.toNat := (BitVec.ofNat_toNat ..).symm

/-- The sum of a 12-bit address and a byte fits 16 bits (spec/41_control_flow.md R113). -/
theorem addrPlus_toNat (a : Addr) (b : Byte) : (addrPlus a b).toNat = a.toNat + b.toNat := by
  have := a.isLt
  have := b.isLt
  simp only [addrPlus, zextAddr, BitVec.toNat_add, BitVec.toNat_setWidth]
  omega

theorem addrPlus_eq_ofNat (a : Addr) (b : Byte) : addrPlus a b = BitVec.ofNat 16 (a.toNat + b.toNat) := by
  rw [← addrPlus_toNat, BitVec.ofNat_toNat, BitVec.setWidth_eq]

theorem execJumpPlusV0_pc {a : Addr} {s t : State} (h : exec (.jumpPlusV0 a) s = .next t) :
    t.pc = addrPlus a (s.reg 0) := by
  cases h
  rfl

/-! ### Instructions with a shape of their own -/

/-- Return resumes at the slot `sp` names. -/
theorem execReturn_pc {s t : State} (h : exec .ret s = .next t) (running : t.halt = .running) :
    t.pc = s.stack[s.sp.toNat]?.getD 0 := by
  simp only [exec, execReturn] at h
  split at h
  · exact absurd running (not_running_of_raise h)
  · split at h
    · next slot =>
      cases h
      rw [Vector.getElem?_eq_getElem slot, Option.getD_some]
    · exact nomatch h

/-- A Call that finds a free slot goes to its address. -/
theorem execCall_pc {a : Addr} {s t : State} (h : exec (.call a) s = .next t) (running : t.halt = .running) :
    t.pc = zextAddr a := by
  simp only [exec, execCall] at h
  split at h
  · cases h
    rfl
  · exact absurd running (not_running_of_raise h)

/-- AddIndexVx advances where the sum fits `i`. -/
theorem execAddIndexVx_pc {x : Reg} {s t : State} (h : exec (.addIndexVx x) s = .next t)
    (running : t.halt = .running) : t.pc = s.pc + 2 := by
  simp only [exec, execAddIndexVx] at h
  split at h
  · exact pc_of_next_advance h rfl
  · exact absurd running (not_running_of_raise h)

/-- LoadVxKey waits at the pc while no key is there. -/
theorem execLoadVxKey_pc {x : Reg} {s t : State} (h : exec (.loadVxKey x) s = .next t) :
    t.pc = if s.lastKey = 255 then s.pc else s.pc + 2 := by
  simp only [exec, execLoadVxKey] at h
  split at h
  · next waits =>
    cases h
    exact (if_pos waits).symm
  · next key => exact (pc_of_next_advance h rfl).trans (if_neg key).symm

/-! ### The table -/

/-- The pc after each kind, by the shape of its next state. -/
theorem exec_pc {i : Instr} {s t : State} (h : exec i s = .next t) (running : t.halt = .running) :
    t.pc = pcAfter i s := by
  cases i with
  | clearScreen | loadByte | addByte | loadReg | orReg | andReg | xorReg | addReg | subReg | shiftRight | subnReg
  | shiftLeft | loadIndex | random | loadVxDelay | loadDelayVx | loadSoundVx | loadFontVx =>
    exact pc_of_next_advance h rfl
  | skipEqByte | skipEqReg => exact pc_of_next_skipIf beq_iff_eq h
  | skipNeByte | skipNeReg => exact pc_of_next_skipIf bne_iff_ne h
  | skipKeyPressed | skipKeyNotPressed => exact pc_of_skipOnKey h running
  | drawSprite => exact pc_of_withSpan h (drawSprite_pc ..) running
  | storeBCD => exact pc_of_withSpan h rfl running
  | storeRegisters => exact pc_of_withSpan h (storeRange_pc ..) running
  | loadRegisters => exact pc_of_withSpan h (loadRange_pc ..) running
  | ret => exact execReturn_pc h running
  | call a => exact (execCall_pc h running).trans (zextAddr_eq_ofNat a)
  | jump a =>
    cases h
    exact zextAddr_eq_ofNat a
  | jumpPlusV0 a => exact (execJumpPlusV0_pc h).trans (addrPlus_eq_ofNat a _)
  | addIndexVx => exact execAddIndexVx_pc h running
  | loadVxKey => exact execLoadVxKey_pc h

/-- Settles O55: each kind's next state has one of the shapes above; at a pc below 0xFFF the sums stay far below 2^16,
and so does JumpPlusV0's from every pc. -/
theorem pcFollowsThePolicy : Obligations.PcFollowsThePolicy := by
  refine fun i s t h running => ⟨exec_pc h running, fun inside => ?_, ?_⟩
  · exact ⟨by bv_omega, by bv_omega⟩
  · rintro a rfl
    rw [execJumpPlusV0_pc h, addrPlus_toNat]

end Sys2Proof.Machine
end

section
/-! The step of an opcode that does not decode (spec/30_encoding.md R67). -/

namespace Sys2Proof.Machine

/-- A running machine whose opcode does not decode raises `DecodeFailure` with the opcode. -/
theorem stepCall_of_decodeWord_eq_none {s : State} {op : Word} (running : s.halt = .running)
    (fetched : s.fetch = some op) (undecoded : decodeWord op = none) :
    stepCall s = raise .decodeFailure (some op) none { s with boot := false } := by
  simp only [stepCall, if_pos running, fetched, runWord_eq, undecoded]

/-- Settles O10: an opcode that matches no entry does not decode, so the pending `step(keys)` answers `raise`, which
writes `halt` alone. -/
theorem unmatchedOpcodeRaisesDecodeFailure : Obligations.UnmatchedOpcodeRaisesDecodeFailure := by
  intro s op keys rest running fetched unmatched
  have undecoded : decodeWord op = none := decodeWordFor_eq_none_iff.mpr unmatched
  have answer : stepCall { s with pending := rest, keys := keys } = _ :=
    stepCall_of_decodeWord_eq_none running fetched undecoded
  exact ⟨_, (step_of_call s (.step keys) rest).trans answer, rfl, rfl⟩

end Sys2Proof.Machine
end

section
/-! The halted machine (spec/30_encoding.md R77, spec/60_exceptions.md R202). -/

namespace Sys2Proof.Machine

/-- The only calls a halted machine answers are `reset()` and a write of `last_key`. -/
theorem perform_cases_of_halted {c : HostCall} {s t : State} (halted : s.halt ≠ .running)
    (h : perform c s = .next t) :
    (c = .reset ∧ t = resetCall s) ∨ ∃ key, c = .setLastKey key ∧ t = { s with lastKey := key } := by
  obtain ⟨hc, ht⟩ | ⟨_, _, _, running, _⟩ | ⟨keys, _, hstep⟩ | ⟨_, running, _⟩ | ⟨key, hc, _, ht⟩ := perform_cases h
  · exact .inl ⟨hc, ht⟩
  · exact absurd running halted
  · exact absurd (stepCall_cases hstep).1 halted
  · exact absurd running halted
  · exact .inr ⟨key, hc, ht⟩

/-- A halted machine answers no other call. -/
theorem step_ne_next_of_halted {s : State} (halted : s.halt ≠ .running) (c : HostCall) (notReset : c ≠ .reset)
    (notWrite : ∀ key, c ≠ .setLastKey key) (rest : List HostCall) (t : State) :
    step { s with pending := c :: rest } ≠ .next t := by
  intro h
  obtain ⟨hc, -⟩ | ⟨key, hc, -⟩ := perform_cases_of_halted (s := { s with pending := rest }) halted h
  · exact notReset hc
  · exact notWrite key hc

/-- The host's write of `last_key` leaves `halt` alone. -/
theorem halt_of_setLastKey {s t : State} {key : Byte} {rest : List HostCall}
    (h : step { s with pending := .setLastKey key :: rest } = .next t) : t.halt = s.halt := by
  rw [step_of_call, perform, setLastKeyCall] at h
  split at h
  · cases h
    rfl
  · exact nomatch h

/-- Settles O11: a halted machine answers `reset()` and a write of `last_key` alone; the write keeps `halt`, `reset()`
makes it `running`, and a successful end is running. -/
theorem haltedMachineOnlyResets : Obligations.HaltedMachineOnlyResets :=
  fun s keys image _ rest halted =>
    ⟨step_ne_next_of_halted halted (.step keys) nofun nofun rest, step_ne_next_of_halted halted .tick nofun nofun rest,
      step_ne_next_of_halted halted (.load image) nofun nofun rest, fun _ => halt_of_setLastKey,
      ⟨_, step_of_call s .reset rest, rfl⟩, fun ended => halted ended.1⟩

end Sys2Proof.Machine
end

section
/-! Which opcodes are an instruction (spec/30_encoding.md R62, R68), read off its row of the catalog. -/

namespace Sys2Proof

/-- The opcodes that agree with a row's pattern under its mask are the instruction the row reads; rows count from 0. -/
theorem encodes_of_row (k : Nat) (e : Entry) (hk : catalog[k]? = some e) :
    Encodes (e.maskFor Config.mask59) e.pattern e.read :=
  fun _ hop => decodeWordFor_of_match (List.mem_of_getElem? hk) hop

end Sys2Proof
end

section
/-! ClearScreen (spec/40_display.md R100). -/

namespace Sys2Proof.Machine

/-- Settles O12: its row of the catalog gives the encoding, and `clearScreen` writes the framebuffer alone. -/
theorem clearScreenClearsEveryPixel : Obligations.ClearScreenClearsEveryPixel :=
  ⟨encodes_of_row 0 _ rfl, fun s => ⟨s.clearScreen.advance, rfl, rfl, rfl, s.clearScreen_pixel⟩⟩

end Sys2Proof.Machine
end

section
/-! DrawSprite and its pixel loop (spec/40_display.md R101, R102). The model draws state by state, the loop folds over
pairs of a framebuffer and a collision flag: after any number of pixels the state is the first one with such a pair put
in, and drawing one more pixel is one `spritePlot` of the pair. -/

namespace Sys2Proof.Machine

/-- The state in the middle of a sprite: the framebuffer so far, and the collision flag so far in VF. -/
def State.plotted (s : State) (acc : Screen × Bool) : State :=
  State.setReg { s with fb := acc.1 } vf (boolByte acc.2)

theorem State.plotted_reg_vf (s : State) (acc : Screen × Bool) : (s.plotted acc).reg vf = boolByte acc.2 := by
  rw [plotted, setReg_reg, if_pos rfl]

/-! ### One pixel -/

/-- In the middle of a sprite a coordinate reads as R102 says. -/
theorem operandNow_plotted (ord : AliasOrder) (r : Reg) (s : State) (acc : Screen × Bool) :
    operandNow ord r (s.reg r) (s.plotted acc) = spriteCoordinate ord r (s.reg r) acc.2 := by
  by_cases isFlag : r = vf
  · subst isFlag
    cases ord with
    | snapshot => rw [operandNow_snapshot, spriteCoordinate, if_neg nofun]
    | sequential =>
      rw [operandNow_vf_sequential, State.plotted_reg_vf, spriteCoordinate, if_pos ⟨rfl, rfl⟩, boolByte]
  · rw [operandNow_of_ne isFlag, spriteCoordinate, if_neg fun h => isFlag h.1]

/-- One plot updates the pair: the pixel is XORed, and the flag is set where a set pixel was cleared. -/
theorem plotFlagged_plotted (px : Fin 64) (py : Fin 32) (b : Bool) (s : State) (acc : Screen × Bool) :
    plotFlagged px py b (s.plotted acc) =
      s.plotted (acc.1.set py (acc.1[py].set px (acc.1[py][px] ^^ b)), acc.2 || (acc.1[py][px] && b)) := by
  have flag : (if (s.plotted acc).collides px py b then 1 else (s.plotted acc).reg vf) =
      boolByte (acc.2 || (acc.1[py][px] && b)) := by
    have collision : (s.plotted acc).collides px py b = (acc.1[py][px] && b) := rfl
    rw [State.plotted_reg_vf, collision]
    cases acc.1[py][px] && b with
    | false => simp
    | true => simp [boolByte]
  rw [plotFlagged, flag]
  exact State.setReg_setReg (State.plot { s with fb := acc.1 } px py b) vf (boolByte acc.2) _

/-- Drawing a pixel is the loop's `Plot`. -/
theorem drawPixel_plotted (ord : AliasOrder) (x y : Reg) (s : State) (row col : Nat) (acc : Screen × Bool) :
    drawPixel ord x y (s.reg x) (s.reg y) (s.readMem (s.i.toNat + row)) row col (s.plotted acc) =
      s.plotted (spritePlot ord x y s acc (row, col)) := by
  rw [drawPixel, operandNow_plotted, operandNow_plotted]
  exact plotFlagged_plotted ..

/-! ### The loop -/

/-- The first `n` pixels of a row. -/
theorem drawCols_plotted (ord : AliasOrder) (x y : Reg) (s : State) (row : Nat) (acc : Screen × Bool) (n : Nat) :
    drawCols ord x y (s.reg x) (s.reg y) (s.readMem (s.i.toNat + row)) row n (s.plotted acc) =
      s.plotted (((List.range n).map fun col => (row, col)).foldl (spritePlot ord x y s) acc) := by
  induction n with
  | zero => rfl
  | succ n ih =>
    rw [drawCols, ih, drawPixel_plotted, List.range_succ, List.map_append, List.foldl_append]
    rfl

/-- One more row comes last in the order of the pixels. -/
theorem spriteOrder_succ (n : Nat) :
    spriteOrder (n + 1) = spriteOrder n ++ (List.range 8).map fun col => (n, col) := by
  rw [spriteOrder, List.range_succ (n := n), List.flatMap_append, List.flatMap_singleton, spriteOrder]

/-- The first `n` rows. -/
theorem drawRows_plotted (ord : AliasOrder) (x y : Reg) (s : State) (acc : Screen × Bool) (n : Nat) :
    drawRows ord x y (s.reg x) (s.reg y) s.mem s.i.toNat n (s.plotted acc) =
      s.plotted ((spriteOrder n).foldl (spritePlot ord x y s) acc) := by
  induction n with
  | zero => rfl
  | succ n ih =>
    rw [drawRows, ih, spriteOrder_succ, List.foldl_append]
    exact drawCols_plotted ..

/-- DrawSprite leaves what the loop gives: it begins with the framebuffer as it is and VF cleared. -/
theorem drawSprite_eq_plotted (ord : AliasOrder) (x y : Reg) (n : Nat) (s : State) :
    drawSprite ord x y n s = s.plotted (spriteLoop ord x y n s) :=
  drawRows_plotted ord x y s (s.fb, false) n

/-! ### The instruction -/

/-- The opcode as the number R68 writes. -/
theorem encode_drawSprite (x y : Reg) (n : Nibble) :
    encode (.drawSprite x y n) = BitVec.ofNat 16 (0xD000 + x.toNat * 0x100 + y.toNat * 0x10 + n.toNat) := by
  have top : (0xD : Nibble).toNat = 0xD := rfl
  rw [encode, encXYN_eq_ofNat, top]
  congr 1
  omega

/-- Settles O14: its row of the catalog gives the encoding; rows inside memory are drawn by the loop, by the simulation
above, and a row outside it makes the span check fault before anything is drawn. -/
theorem drawSpriteRunsThePixelLoop : Obligations.DrawSpriteRunsThePixelLoop := by
  refine ⟨encodes_of_row 24 _ rfl, fun x y n s => ⟨fun fits => ?_, fun ⟨rows, leaves⟩ => ?_⟩⟩
  · rw [exec, execDrawSprite, drawSpriteWith, withSpan_of_fits fits, drawSprite_eq_plotted]
    rfl
  · rw [exec, execDrawSprite, drawSpriteWith, withSpan_of_leaves rows leaves, encode_drawSprite]
    rfl

end Sys2Proof.Machine
end

section
/-! Control transfer and the return stack (spec/41_control_flow.md R110 to R113): the two stack pointers of a push and a
pop as numbers, then what Return and Call answer in each of their cases. -/

namespace Sys2Proof.Machine

/-! ### The return stack (R25, R26) -/

/-- `sp` after a pop, the sentinel below slot 0. -/
theorem State.spBelow_toNat (s : State) : s.spBelow.toNat = if s.sp.toNat = 0 then 0xFF else s.sp.toNat - 1 := by
  rw [spBelow]
  split
  · next bottom => rw [bottom]; rfl
  · next above =>
    have : s.sp.toNat ≠ 0 := fun zero => above (BitVec.eq_of_toNat_eq zero)
    rw [if_neg this]
    bv_omega

/-- The slot of a push, read off `sp` as a number. -/
theorem State.nextSlot_eq (s : State) : s.nextSlot = if s.sp.toNat = 0xFF then 0 else s.sp.toNat + 1 :=
  if_congr BitVec.toNat_inj.symm rfl rfl

/-- A push finds a slot on the empty stack and above every slot but the last. -/
theorem State.nextSlot_lt_iff (s : State) : s.nextSlot < 16 ↔ s.sp.toNat = 0xFF ∨ s.sp.toNat < 15 := by
  rw [nextSlot_eq]
  split <;> omega

theorem State.pushAt_sp_toNat (s : State) {k : Nat} (h : k < 16) (t : Word) : (s.pushAt k h t).sp.toNat = k := by
  rw [pushAt_sp, BitVec.toNat_ofNat]
  omega

/-- A push fills its slot. -/
theorem State.pushAt_stack_same (s : State) {k : Nat} (h : k < 16) (t : Word) :
    (s.pushAt k h t).stack[k]? = some t := by
  rw [pushAt_stack, Vector.getElem?_set_self h]

/-- A push keeps every other slot. -/
theorem State.pushAt_stack_ne (s : State) {k j : Nat} (h : k < 16) (t : Word) (other : j ≠ k) :
    (s.pushAt k h t).stack[j]? = s.stack[j]? := by
  rw [pushAt_stack, Vector.getElem?_set_ne h other.symm]

/-! ### Return -/

theorem execReturn_of_empty {s : State} (empty : s.sp = 0xFF) :
    exec .ret s = raise .stackUnderflow (some 0x00EE) none s := if_pos empty

theorem execReturn_of_slot {s : State} (slot : s.sp.toNat < 16) :
    exec .ret s = .next { s with sp := s.spBelow, pc := s.stack[s.sp.toNat] } := by
  have notEmpty : s.sp ≠ Config.spEmpty := fun empty => absurd (empty ▸ slot) (by decide)
  rw [exec, execReturn, if_neg notEmpty, dif_pos slot]

/-- Settles O15: its row of the catalog gives the encoding; on the sentinel the meaning raises, which writes `halt`
alone, and on a slot it writes `pc` and `sp` alone. -/
theorem returnPopsTheStack : Obligations.ReturnPopsTheStack :=
  ⟨encodes_of_row 1 _ rfl, fun s => ⟨execReturn_of_empty, fun slot =>
    ⟨_, execReturn_of_slot slot, rfl, rfl, s.spBelow_toNat⟩⟩⟩

/-! ### Jumps -/

/-- Settles O16: its row of the catalog gives the encoding, and `pc` is the address zero-extended. -/
theorem jumpSetsThePc : Obligations.JumpSetsThePc := by
  refine ⟨encodes_of_row 2 _ rfl, fun addr s => ?_⟩
  rw [← zextAddr_eq_ofNat]
  rfl

/-- Settles O18: its row of the catalog gives the encoding, and the 16-bit sum of a 12-bit address and a byte does not
wrap. -/
theorem jumpPlusV0AddsWithoutWrap : Obligations.JumpPlusV0AddsWithoutWrap :=
  ⟨encodes_of_row 20 _ rfl, fun addr s => ⟨s.setPc (addrPlus addr (s.reg 0)), rfl, rfl, addrPlus_toNat addr _⟩⟩

/-! ### Call -/

theorem execCall_of_free {s : State} (addr : Addr) (free : s.nextSlot < 16) :
    exec (.call addr) s = .next ((s.pushAt s.nextSlot free (s.pc + 2)).setPc (zextAddr addr)) := dif_pos free

theorem execCall_of_full {s : State} (addr : Addr) (full : ¬ s.nextSlot < 16) :
    exec (.call addr) s = raise .stackOverflow (some (encode (.call addr))) none s := dif_neg full

theorem zextAddr_toNat (a : Addr) : (zextAddr a).toNat = a.toNat :=
  BitVec.toNat_setWidth_of_le (by decide)

/-- The opcode as the number R68 writes. -/
theorem encode_call (a : Addr) : encode (.call a) = BitVec.ofNat 16 (0x2000 + a.toNat) := by
  have number : (encode (.call a)).toNat = 0x2000 + a.toNat := encAddr_toNat 0x2 a
  rw [← number, BitVec.ofNat_toNat, BitVec.setWidth_eq]

/-- Settles O17: its row of the catalog gives the encoding; where a slot is free the answer is a push and a jump, and
where none is the meaning raises, which writes `halt` alone. -/
theorem callPushesTheReturnAddress : Obligations.CallPushesTheReturnAddress := by
  refine ⟨encodes_of_row 3 _ rfl, fun addr s => ⟨fun hasSlot => ?_, fun notEmpty top => ?_⟩⟩
  · have free : s.nextSlot < 16 := s.nextSlot_lt_iff.mpr hasSlot
    exact ⟨_, s.nextSlot, execCall_of_free addr free, rfl, s.nextSlot_eq, s.pushAt_sp_toNat free (s.pc + 2),
      s.pushAt_stack_same free _, fun _ other => s.pushAt_stack_ne free _ other, zextAddr_toNat addr⟩
  · have full : ¬ s.nextSlot < 16 := by rw [s.nextSlot_lt_iff]; omega
    rw [execCall_of_full addr full, encode_call]
    rfl

end Sys2Proof.Machine
end

section
/-! Conditional skips (spec/42_skips.md R120 to R125): a skip writes the pc alone, so each meaning is its condition, said
once for a skip where the statement's condition holds and once for a skip where it fails. -/

namespace Sys2Proof.Machine

/-! ### Skips as a choice of pc -/

/-- A skip on a condition goes four bytes on where the condition holds. -/
theorem State.skipIf_of_iff (s : State) {c : Bool} {p : Prop} [Decidable p] (hc : c = true ↔ p) :
    s.skipIf c = { s with pc := if p then s.pc + 4 else s.pc + 2 } :=
  congrArg s.setPc (if_congr hc rfl rfl)

/-- A skip on the negation goes four bytes on where the condition fails. -/
theorem State.skipIf_of_iff_not (s : State) {c : Bool} {p : Prop} [Decidable p] (hc : c = true ↔ ¬p) :
    s.skipIf c = { s with pc := if p then s.pc + 2 else s.pc + 4 } := by
  rw [s.skipIf_of_iff hc, ite_not]

/-! ### Comparisons (R120 to R123) -/

/-- A skip on equal bytes, compared as numbers. -/
theorem State.skipIf_beq (s : State) (a b : Byte) :
    s.skipIf (a == b) = { s with pc := if a.toNat = b.toNat then s.pc + 4 else s.pc + 2 } :=
  s.skipIf_of_iff (beq_iff_eq.trans BitVec.toNat_inj.symm)

/-- A skip on different bytes, compared as numbers. -/
theorem State.skipIf_bne (s : State) (a b : Byte) :
    s.skipIf (a != b) = { s with pc := if a.toNat = b.toNat then s.pc + 2 else s.pc + 4 } :=
  s.skipIf_of_iff_not (bne_iff_ne.trans (not_congr BitVec.toNat_inj.symm))

/-- Settles O20: the two rows of the catalog give the encodings, and the meanings skip on equal and on different bytes. -/
theorem byteSkipsCompare : Obligations.ByteSkipsCompare :=
  ⟨encodes_of_row 4 _ rfl, encodes_of_row 5 _ rfl, fun x kk s =>
    ⟨congrArg _ (s.skipIf_beq (s.reg x) kk), congrArg _ (s.skipIf_bne (s.reg x) kk)⟩⟩

/-- Settles O21: the two rows are open under `MASK_5_9`, so their mask is its value; the meanings skip on equal and on
different registers, whatever the ignored nibble. -/
theorem registerSkipsCompare : Obligations.RegisterSkipsCompare :=
  ⟨encodes_of_row 6 _ rfl, encodes_of_row 18 _ rfl, fun x y _ s =>
    ⟨congrArg _ (s.skipIf_beq (s.reg x) (s.reg y)), congrArg _ (s.skipIf_bne (s.reg x) (s.reg y))⟩⟩

/-! ### Keys (R124, R125) -/

/-- An opcode of the x and byte form as the number R61 writes. -/
theorem encXKK_eq_ofNat (t : Nibble) (x : Reg) (kk : Byte) :
    encXKK t x kk = BitVec.ofNat 16 (t.toNat * 0x1000 + kk.toNat + x.toNat * 0x100) := by
  apply BitVec.eq_of_toNat_eq
  rw [encXKK_toNat, BitVec.toNat_ofNat]
  omega

/-- The opcode as the number R68 writes. -/
theorem encode_skipKeyPressed (x : Reg) :
    encode (.skipKeyPressed x) = BitVec.ofNat 16 (0xE09E + x.toNat * 0x100) := encXKK_eq_ofNat 0xE x 0x9E

/-- The opcode as the number R68 writes. -/
theorem encode_skipKeyNotPressed (x : Reg) :
    encode (.skipKeyNotPressed x) = BitVec.ofNat 16 (0xE0A1 + x.toNat * 0x100) := encXKK_eq_ofNat 0xE x 0xA1

theorem execSkipKeyPressed_of_key {x : Reg} {s : State} (key : (s.reg x).toNat < 16) :
    exec (.skipKeyPressed x) s =
      .next { s with pc := if s.keys.getLsbD (s.reg x).toNat = true then s.pc + 4 else s.pc + 2 } := by
  rw [exec, execSkipKeyPressed, skipOnKey_of_key key, s.skipIf_of_iff beq_iff_eq]
  rfl

theorem execSkipKeyNotPressed_of_key {x : Reg} {s : State} (key : (s.reg x).toNat < 16) :
    exec (.skipKeyNotPressed x) s =
      .next { s with pc := if s.keys.getLsbD (s.reg x).toNat = true then s.pc + 2 else s.pc + 4 } := by
  rw [exec, execSkipKeyNotPressed, skipOnKey_of_key key,
    s.skipIf_of_iff_not (beq_iff_eq.trans Bool.eq_false_iff)]
  rfl

/-- Settles O22: the two rows of the catalog give the encodings; an index of a key decides the skip by the key's state,
and one above 15 makes the meaning raise, which writes `halt` alone. -/
theorem keySkipsTestTheKey : Obligations.KeySkipsTestTheKey := by
  refine ⟨encodes_of_row 22 _ rfl, encodes_of_row 23 _ rfl, fun x s => ⟨fun atMost15 => ?_, fun noKey => ?_⟩⟩
  · have key : (s.reg x).toNat < 16 := Nat.lt_succ_of_le atMost15
    exact ⟨execSkipKeyPressed_of_key key, execSkipKeyNotPressed_of_key key⟩
  · rw [← encode_skipKeyPressed, ← encode_skipKeyNotPressed]
    exact ⟨skipOnKey_of_no_key noKey, skipOnKey_of_no_key noKey⟩

end Sys2Proof.Machine
end

section
/-! Register loads, arithmetic and logic (spec/43_alu.md R131 to R142). A kind without a flag is `writeReg`, one with a
flag is `writeFlagged`: what either leaves in the registers is said once, and each statement puts in its own bytes. -/

namespace Sys2Proof.Machine

/-! ### Kinds that write no flag (R132 to R137) -/

/-- Writing one register and advancing: the value written, and the frame. -/
theorem writeReg_effect (x : Reg) (w : Byte) (s : State) :
    ∃ t, writeReg x w s = .next t ∧ { t with v := s.v, pc := s.pc } = s ∧ t.pc = s.pc + 2 ∧ t.reg x = w ∧
      ∀ r, r ≠ x → t.reg r = s.reg r :=
  ⟨(s.setReg x w).advance, rfl, rfl, rfl, (s.setReg_reg x w x).trans (if_pos rfl),
    fun r other => (s.setReg_reg x w r).trans (if_neg other)⟩

/-- Settles O23: the rows of the catalog give the encodings, and each meaning writes its operand. -/
theorem loadsWriteTheOperand : Obligations.LoadsWriteTheOperand :=
  ⟨encodes_of_row 7 _ rfl, encodes_of_row 9 _ rfl, writeReg_effect, fun x y s => writeReg_effect x (s.reg y) s⟩

/-- Settles O24: the meaning writes the sum of two bytes, which is modulo 2^8. -/
theorem addByteWrapsWithoutFlag : Obligations.AddByteWrapsWithoutFlag := by
  refine ⟨encodes_of_row 8 _ rfl, fun x kk s => ?_⟩
  obtain ⟨t, answer, frame, pc, sum, others⟩ := writeReg_effect x (s.reg x + kk) s
  exact ⟨t, answer, frame, pc, sum ▸ BitVec.toNat_add (s.reg x) kk, others⟩

/-- A written value, read bit by bit. -/
theorem writeReg_bits (x : Reg) {w : Byte} {bit : Nat → Bool} (bits : ∀ k, w.getLsbD k = bit k) (s : State) :
    ∃ t, writeReg x w s = .next t ∧ { t with v := s.v, pc := s.pc } = s ∧ t.pc = s.pc + 2 ∧
      (∀ k, (t.reg x).getLsbD k = bit k) ∧ ∀ r, r ≠ x → t.reg r = s.reg r := by
  obtain ⟨t, answer, frame, pc, value, others⟩ := writeReg_effect x w s
  exact ⟨t, answer, frame, pc, value ▸ bits, others⟩

/-- Settles O25: each meaning writes one bitwise operation of the two registers. -/
theorem logicCombinesBitByBit : Obligations.LogicCombinesBitByBit :=
  ⟨encodes_of_row 10 _ rfl, encodes_of_row 11 _ rfl, encodes_of_row 12 _ rfl, fun x _ s =>
    ⟨writeReg_bits x (fun _ => BitVec.getLsbD_or) s, writeReg_bits x (fun _ => BitVec.getLsbD_and) s,
      writeReg_bits x (fun _ => BitVec.getLsbD_xor) s⟩⟩

/-! ### Flags and results as numbers -/

theorem boolByte_decide_toNat (p : Prop) [Decidable p] : (boolByte (decide p)).toNat = if p then 1 else 0 := by
  by_cases h : p <;> simp [boolByte, h]

theorem carryFlag_toNat (a b : Byte) : (carryFlag a b).toNat = if 255 < a.toNat + b.toNat then 1 else 0 :=
  boolByte_decide_toNat _

theorem greaterFlag_toNat (a b : Byte) : (greaterFlag a b).toNat = if b.toNat < a.toNat then 1 else 0 :=
  boolByte_decide_toNat _

theorem lowBitFlag_toNat (a : Byte) : (lowBitFlag a).toNat = a.toNat % 2 :=
  (BitVec.toNat_and a 1).trans (Nat.and_one_is_mod a.toNat)

theorem highBitFlag_toNat (a : Byte) : (highBitFlag a).toNat = a.toNat / 128 := by
  rw [highBitFlag, BitVec.toNat_ushiftRight, Nat.shiftRight_eq_div_pow]

/-- A difference modulo 2^8, as the rules write it (R144). -/
theorem byte_sub_toNat (a b : Byte) : (a - b).toNat = (a.toNat + 256 - b.toNat) % 256 := by
  rw [BitVec.toNat_sub]
  omega

theorem byte_ushiftRight_one_toNat (a : Byte) : (a >>> 1).toNat = a.toNat / 2 := by
  rw [BitVec.toNat_ushiftRight, Nat.shiftRight_eq_div_pow]

theorem byte_shiftLeft_one_toNat (a : Byte) : (a <<< 1).toNat = a.toNat * 2 % 256 := by
  rw [BitVec.toNat_shiftLeft, Nat.shiftLeft_eq]

/-! ### Kinds that write VF as a flag (R131, R138 to R142) -/

/-- An operand read after the flag: VF under `sequential` reads as the flag, everything else as before. -/
theorem operandNow_setReg_vf (ord : AliasOrder) (r : Reg) (w f : Byte) (s : State) :
    operandNow ord r w (s.setReg vf f) = if r = 15 ∧ ord = .sequential then f else w := by
  by_cases isFlag : r = 15
  · subst isFlag
    cases ord with
    | snapshot => rw [operandNow_snapshot, if_neg nofun]
    | sequential => rw [if_pos ⟨rfl, rfl⟩, ← vf, operandNow_vf_sequential, State.setReg_reg, if_pos rfl]
  · rw [operandNow_of_ne isFlag, if_neg fun h => isFlag h.1]

/-- Writing a flag and a result and advancing: the frame, the flag as a number, and the result with each operand as the
order of R131 reads it. -/
theorem writeFlagged_effect (ord : AliasOrder) (x y : Reg) (f g : Byte → Byte → Byte) (s : State) {n : Nat}
    (flag : (f (s.reg x) (s.reg y)).toNat = n) :
    ∃ t, (.next (writeFlagged ord x y f g s).advance : Result) = .next t ∧ { t with v := s.v, pc := s.pc } = s ∧
      t.pc = s.pc + 2 ∧ (∀ r, r ≠ x → r ≠ 15 → t.reg r = s.reg r) ∧ (x ≠ 15 → (t.reg 15).toNat = n) ∧
      t.reg x = g (if x = 15 ∧ ord = .sequential then f (s.reg x) (s.reg y) else s.reg x)
        (if y = 15 ∧ ord = .sequential then f (s.reg x) (s.reg y) else s.reg y) := by
  refine ⟨(writeFlagged ord x y f g s).advance, rfl, rfl, rfl, fun r => ?others, fun notFlag => ?flag, ?result⟩
  case others => exact writeFlagged_reg_other ord y f g s
  case flag => exact flag ▸ congrArg _ (writeFlagged_reg_vf ord y f g s notFlag)
  case result => rw [State.advance_reg, writeFlagged_reg_result, operandNow_setReg_vf, operandNow_setReg_vf]

/-- Settles O26: its operands are read before the flag is written, so the sum is of the old values in every case. -/
theorem addRegCarriesIntoVF : Obligations.AddRegCarriesIntoVF := by
  refine ⟨encodes_of_row 13 _ rfl, fun x y s => ?_⟩
  obtain ⟨t, answer, frame, pc, others, carry, sum⟩ :=
    writeFlagged_effect .snapshot x y carryFlag (fun a b => a + b) s (carryFlag_toNat _ _)
  rw [if_neg nofun, if_neg nofun] at sum
  exact ⟨t, answer, frame, pc, sum ▸ BitVec.toNat_add _ _, carry, others⟩

/-- The VF cases of a difference `g` of `a` and `b` with flag `c`, `p` and `q` saying which operand is VF. Where both
are, they are equal under either order. -/
theorem difference_vf_cases (ord : AliasOrder) {p q : Prop} [Decidable p] [Decidable q] (g : Byte → Byte → Byte)
    {a b c : Byte} {plain left right : Nat} (equal : ∀ w, g w w = 0) (same : p → q → a = b)
    (hplain : (g a b).toNat = plain) (hleft : (g c b).toNat = left) (hright : (g a c).toNat = right) :
    (g (if p ∧ ord = .sequential then c else a) (if q ∧ ord = .sequential then c else b)).toNat =
      if p ∧ q then 0
      else if p then (match ord with | .snapshot => plain | .sequential => left)
      else if q then (match ord with | .snapshot => plain | .sequential => right)
      else plain := by
  by_cases hp : p
  · by_cases hq : q
    · simp [hp, hq, same hp hq, equal]
    · cases ord with
      | snapshot => simpa [hp, hq] using hplain
      | sequential => simpa [hp, hq] using hleft
  · by_cases hq : q
    · cases ord with
      | snapshot => simpa [hp, hq] using hplain
      | sequential => simpa [hp, hq] using hright
    · simpa [hp, hq] using hplain

/-- Settles O27: the difference is `a - b`, and the flag is set where `b < a`. -/
theorem subRegFlagsStrictlyGreater : Obligations.SubRegFlagsStrictlyGreater := by
  refine ⟨encodes_of_row 14 _ rfl, ?_⟩
  rintro x y s _ _ f rfl rfl hf
  have greater : (greaterFlag (s.reg x) (s.reg y)).toNat = f := (greaterFlag_toNat _ _).trans hf.symm
  obtain ⟨t, answer, frame, pc, others, flag, result⟩ :=
    writeFlagged_effect Config.aliasOrder x y greaterFlag (fun a b => a - b) s greater
  refine ⟨t, answer, frame, pc, others, flag, ?_⟩
  rw [result, ← greater]
  exact difference_vf_cases Config.aliasOrder (fun a b => a - b) BitVec.sub_self
    (fun hx hy => congrArg s.reg (hx.trans hy.symm)) (byte_sub_toNat _ _) (byte_sub_toNat _ _) (byte_sub_toNat _ _)

/-- Settles O28: the difference is `b - a`, and the flag is set where `a < b`. -/
theorem subnRegFlagsStrictlyGreater : Obligations.SubnRegFlagsStrictlyGreater := by
  refine ⟨encodes_of_row 16 _ rfl, ?_⟩
  rintro x y s _ _ f rfl rfl hf
  have greater : (greaterFlag (s.reg y) (s.reg x)).toNat = f := (greaterFlag_toNat _ _).trans hf.symm
  obtain ⟨t, answer, frame, pc, others, flag, result⟩ :=
    writeFlagged_effect Config.aliasOrder x y (fun a b => greaterFlag b a) (fun a b => b - a) s greater
  refine ⟨t, answer, frame, pc, others, flag, ?_⟩
  rw [result, ← greater]
  exact difference_vf_cases Config.aliasOrder (fun a b => b - a) BitVec.sub_self
    (fun hx hy => congrArg s.reg (hx.trans hy.symm)) (byte_sub_toNat _ _) (byte_sub_toNat _ _) (byte_sub_toNat _ _)

/-- The VF case of a shift `g` of `a` with flag `c`, `p` saying whether the register is VF. -/
theorem shift_vf_case (ord : AliasOrder) {p : Prop} [Decidable p] (g : Byte → Byte) {a c : Byte}
    {plain flagged : Nat}
    (hplain : (g a).toNat = plain) (hflagged : (g c).toNat = flagged) :
    (g (if p ∧ ord = .sequential then c else a)).toNat =
      if p then (match ord with | .snapshot => plain | .sequential => flagged) else plain := by
  by_cases hp : p
  · cases ord with
    | snapshot => simpa [hp] using hplain
    | sequential => simpa [hp] using hflagged
  · simpa [hp] using hplain

/-- Settles O29: under `sequential` the shift is of the flag, and half of one bit is 0. -/
theorem shiftRightMovesBitZeroToVF : Obligations.ShiftRightMovesBitZeroToVF := by
  refine ⟨encodes_of_row 15 _ rfl, fun x _ s => ?_⟩
  obtain ⟨t, answer, frame, pc, others, flag, result⟩ := writeFlagged_effect Config.aliasOrder x x
    (fun a _ => lowBitFlag a) (fun a _ => a >>> 1) s (lowBitFlag_toNat _)
  have half : (lowBitFlag (s.reg x) >>> 1).toNat = 0 := by
    rw [byte_ushiftRight_one_toNat, lowBitFlag_toNat]
    omega
  refine ⟨t, answer, frame, pc, others, flag, ?_⟩
  rw [result]
  exact shift_vf_case Config.aliasOrder (· >>> 1) (byte_ushiftRight_one_toNat _) half

/-- Settles O30: under `sequential` the shift is of the flag, and the double of one bit does not wrap. -/
theorem shiftLeftMovesBitSevenToVF : Obligations.ShiftLeftMovesBitSevenToVF := by
  refine ⟨encodes_of_row 17 _ rfl, fun x _ s => ?_⟩
  obtain ⟨t, answer, frame, pc, others, flag, result⟩ := writeFlagged_effect Config.aliasOrder x x
    (fun a _ => highBitFlag a) (fun a _ => a <<< 1) s (highBitFlag_toNat _)
  have double : (highBitFlag (s.reg x) <<< 1).toNat = (s.reg x).toNat / 128 * 2 := by
    rw [byte_shiftLeft_one_toNat, highBitFlag_toNat]
    omega
  refine ⟨t, answer, frame, pc, others, flag, ?_⟩
  rw [result]
  exact shift_vf_case Config.aliasOrder (· <<< 1) (byte_shiftLeft_one_toNat _) double

end Sys2Proof.Machine
end

section
/-! Index register and memory transfers (spec/44_index_memory.md R150 to R155). Every kind answers an effect that is
advanced, so a frame is that of its effect; the three transfers check one span first and fault in one way. -/

namespace Sys2Proof.Machine

/-! ### The index register (R150 to R152) -/

/-- Settles O32: its row of the catalog gives the encoding, and `i` is the address zero-extended. -/
theorem loadIndexSetsI : Obligations.LoadIndexSetsI := by
  refine ⟨encodes_of_row 19 _ rfl, fun addr s => ?_⟩
  rw [← zextAddr_eq_ofNat]
  rfl

/-- A sum with a byte that fits 16 bits is exact. -/
theorem word_add_byte_toNat {i : Word} {b : Byte} (fits : i.toNat + b.toNat < 0x10000) :
    (i + b.setWidth 16).toNat = i.toNat + b.toNat := by
  rw [BitVec.toNat_add, BitVec.toNat_setWidth_of_le (by decide), Nat.mod_eq_of_lt fits]

theorem execAddIndexVx_of_fits {x : Reg} {s : State} (fits : s.i.toNat + (s.reg x).toNat < 0x10000) :
    exec (.addIndexVx x) s = .next (s.setI (s.i + (s.reg x).setWidth 16)).advance := if_pos fits

theorem execAddIndexVx_of_overflow {x : Reg} {s : State} (overflow : ¬ s.i.toNat + (s.reg x).toNat < 0x10000) :
    exec (.addIndexVx x) s =
      raise .indexOverflow (some (encode (.addIndexVx x))) (some (s.i.toNat + (s.reg x).toNat)) s := if_neg overflow

/-- The opcode as the number R68 writes. -/
theorem encode_addIndexVx (x : Reg) : encode (.addIndexVx x) = BitVec.ofNat 16 (0xF01E + x.toNat * 0x100) :=
  encXKK_eq_ofNat 0xF x 0x1E

/-- Settles O33: its row of the catalog gives the encoding; a sum that fits is put into `i`, and one that does not makes
the meaning raise, which writes `halt` alone. -/
theorem addIndexVxAddsOrFaults : Obligations.AddIndexVxAddsOrFaults := by
  refine ⟨encodes_of_row 29 _ rfl, fun x s => ⟨fun atMostFFFF => ?_, fun overflow => ?_⟩⟩
  · have fits : s.i.toNat + (s.reg x).toNat < 0x10000 := Nat.lt_succ_of_le atMostFFFF
    exact ⟨_, execAddIndexVx_of_fits fits, rfl, rfl, word_add_byte_toNat fits⟩
  · rw [execAddIndexVx_of_overflow (by omega), encode_addIndexVx]
    rfl

/-- Five times a byte fits 16 bits. -/
theorem glyphAddress_toNat (b : Byte) : (glyphAddress b).toNat = b.toNat * 5 := by
  have := b.isLt
  rw [glyphAddress, Config.fontGlyphBytes, BitVec.toNat_ofNat]
  omega

/-- Settles O34: its row of the catalog gives the encoding, and the product does not wrap. -/
theorem loadFontVxPointsAtTheGlyph : Obligations.LoadFontVxPointsAtTheGlyph :=
  ⟨encodes_of_row 30 _ rfl, fun x s =>
    ⟨(s.setI (glyphAddress (s.reg x))).advance, rfl, rfl, rfl, glyphAddress_toNat (s.reg x)⟩⟩

/-! ### What the transfers share -/

/-- A transfer of family 0xF whose span leaves memory: the fault, with the opcode as the number R68 writes. -/
theorem withSpan_encXKK_of_leaves {x : Reg} {low : Byte} {len : Nat} {s k : State} (nonempty : len ≠ 0)
    (leaves : 0x1000 < s.i.toNat + len) :
    withSpan (encXKK 0xF x low) len s k = .next { s with
      halt := .faulted .dataAddressOutOfBounds s.pc (some (BitVec.ofNat 16 (0xF000 + low.toNat + x.toNat * 0x100)))
        (some (max s.i.toNat 0x1000)) } := by
  rw [withSpan_of_leaves nonempty leaves, encXKK_eq_ofNat]
  rfl

/-- An effect on memory alone, advanced, changes memory and the pc alone. -/
theorem advance_frame_mem {s k : State} (frame : { k with mem := s.mem } = s) :
    { k.advance with mem := s.mem, pc := s.pc } = s := congrArg (State.setPc · s.pc) frame

/-- An effect on the registers alone, advanced, changes the registers and the pc alone. -/
theorem advance_frame_v {s k : State} (frame : { k with v := s.v } = s) :
    { k.advance with v := s.v, pc := s.pc } = s := congrArg (State.setPc · s.pc) frame

/-! ### StoreBCD (R153) -/

theorem hundreds_toNat (b : Byte) : (hundreds b).toNat = b.toNat / 100 := by
  have := b.isLt
  rw [hundreds, BitVec.toNat_ofNat]
  omega

theorem tens_toNat (b : Byte) : (tens b).toNat = b.toNat / 10 % 10 := by
  rw [tens, BitVec.toNat_ofNat]
  omega

theorem ones_toNat (b : Byte) : (ones b).toNat = b.toNat % 10 := by
  rw [ones, BitVec.toNat_ofNat]
  omega

/-- The three digits stand in memory: no later write touches an earlier digit. -/
theorem storeDigits_readMem_inside (b : Byte) {s : State} (wf : Memory.wf s.mem = true)
    (fits : s.i.toNat + 2 ≤ 0xFFF) :
    (storeDigits b s).readMem s.i.toNat = hundreds b ∧ (storeDigits b s).readMem (s.i.toNat + 1) = tens b ∧
      (storeDigits b s).readMem (s.i.toNat + 2) = ones b := by
  have wf₁ := State.wf_writeMem wf s.i.toNat (hundreds b)
  have wf₂ := State.wf_writeMem wf₁ (s.i.toNat + 1) (tens b)
  refine ⟨?hundreds, ?tens, State.readMem_writeMem_same wf₂ (by omega) _⟩
  case hundreds =>
    rw [storeDigits, State.readMem_writeMem_ne _ (by omega), State.readMem_writeMem_ne _ (by omega),
      State.readMem_writeMem_same wf (by omega)]
  case tens =>
    rw [storeDigits, State.readMem_writeMem_ne _ (by omega), State.readMem_writeMem_same wf₁ (by omega)]

/-- Every byte outside the three digits is left alone. -/
theorem storeDigits_readMem_outside (b : Byte) (s : State) {a : Nat} (outside : a < s.i.toNat ∨ s.i.toNat + 2 < a) :
    (storeDigits b s).readMem a = s.readMem a := by
  rw [storeDigits, State.readMem_writeMem_ne _ (by omega), State.readMem_writeMem_ne _ (by omega),
    State.readMem_writeMem_ne _ (by omega)]

/-- Settles O35: its row of the catalog gives the encoding; a span inside memory takes the three digits, and one that
leaves it faults before anything is written. -/
theorem storeBCDStoresThreeDigits : Obligations.StoreBCDStoresThreeDigits := by
  refine ⟨encodes_of_row 31 _ rfl, fun x s wf => ⟨fun fits => ?_, fun leaves => ?_⟩⟩
  · obtain ⟨atHundreds, atTens, atOnes⟩ := storeDigits_readMem_inside (s.reg x) wf fits
    exact ⟨(storeDigits (s.reg x) s).advance, withSpan_of_fits (by omega), rfl, rfl,
      atHundreds ▸ hundreds_toNat _, atTens ▸ tens_toNat _, atOnes ▸ ones_toNat _,
      fun _ => storeDigits_readMem_outside _ s⟩
  · exact withSpan_encXKK_of_leaves (by decide) (by omega)

/-! ### StoreRegisters (R154) -/

/-- A register of a stored range stands at its own offset from `i`. -/
theorem storeRange_readMem_reg {s : State} (wf : Memory.wf s.mem = true) {n : Nat} {r : Reg} (stored : r.toNat < n)
    (fits : s.i.toNat + n ≤ 0x1000) : (storeRange n s).readMem (s.i.toNat + r.toNat) = s.reg r := by
  rw [storeRange_readMem_inside wf n r.toNat stored fits, BitVec.ofNat_toNat, BitVec.setWidth_eq]

/-- Settles O36: its row of the catalog gives the encoding; a span inside memory takes the range up to `x`, and one that
leaves it faults before anything is written. -/
theorem storeRegistersStoresTheRange : Obligations.StoreRegistersStoresTheRange := by
  refine ⟨encodes_of_row 32 _ rfl, fun x s wf => ⟨fun fits => ?_, fun leaves => ?_⟩⟩
  · exact ⟨(storeRange (x.toNat + 1) s).advance, withSpan_of_fits (by omega), advance_frame_mem (storeRange_frame _ s),
      congrArg (· + 2) (storeRange_pc _ s), fun r upToX => storeRange_readMem_reg wf (by omega) (by omega),
      fun a outside => storeRange_readMem_outside s a _ (by omega)⟩
  · exact withSpan_encXKK_of_leaves (Nat.succ_ne_zero _) (by omega)

/-! ### LoadRegisters (R155) -/

/-- Settles O37: its row of the catalog gives the encoding; a span inside memory is loaded into the range up to `x`, and
one that leaves it faults before anything is written. -/
theorem loadRegistersLoadsTheRange : Obligations.LoadRegistersLoadsTheRange := by
  refine ⟨encodes_of_row 33 _ rfl, fun x s => ⟨fun fits => ?_, fun leaves => ?_⟩⟩
  · have loaded (r : Reg) := loadRange_reg s r (x.toNat + 1) x.isLt
    exact ⟨(loadRange (x.toNat + 1) s).advance, withSpan_of_fits (by omega), advance_frame_v (loadRange_frame _ s),
      congrArg (· + 2) (loadRange_pc _ s), fun r upToX => (loaded r).trans (if_pos (by omega)),
      fun r aboveX => (loaded r).trans (if_neg (by omega))⟩
  · exact withSpan_encXKK_of_leaves (Nat.succ_ne_zero _) (by omega)

end Sys2Proof.Machine
end

section
/-! Timers, sound and the key wait (spec/45_timers_input.md R160 to R163). -/

namespace Sys2Proof.Machine

/-! ### The timers (R160, R162, R163) -/

/-- Settles O40: the rows of the catalog give the encodings; the one kind writes `dt` into a register, the other a
register into `dt`. -/
theorem delayTimerMoves : Obligations.DelayTimerMoves :=
  ⟨encodes_of_row 25 _ rfl, encodes_of_row 27 _ rfl, fun x s => ⟨writeReg_effect x s.dt s, rfl⟩⟩

/-- Settles O42: its row of the catalog gives the encoding, and no branch of the meaning looks at the value. -/
theorem loadSoundVxStartsTheSound : Obligations.LoadSoundVxStartsTheSound :=
  ⟨encodes_of_row 28 _ rfl, fun _ _ => rfl⟩

/-! ### The key wait (R161) -/

theorem execLoadVxKey_of_noKey {s : State} (x : Reg) (noKey : s.lastKey = 255) : exec (.loadVxKey x) s = .next s :=
  if_pos noKey

/-- Taking a key is a register write in the state whose key is consumed already. -/
theorem execLoadVxKey_of_key {s : State} (x : Reg) (key : s.lastKey ≠ 255) :
    exec (.loadVxKey x) s = writeReg x s.lastKey s.consumeKey := if_neg key

/-- Settles O41: its row of the catalog gives the encoding; without a key the state is the answer, and with one the
register write's frame, taken in the consumed state, says that `lastKey` stays consumed. -/
theorem loadVxKeyWaitsOrConsumes : Obligations.LoadVxKeyWaitsOrConsumes := by
  refine ⟨encodes_of_row 26 _ rfl, fun x s => ⟨execLoadVxKey_of_noKey x, fun key => ?_⟩⟩
  obtain ⟨t, answer, frame, pc, value, others⟩ := writeReg_effect x s.lastKey s.consumeKey
  have consumed : t.lastKey = 255 := congrArg State.lastKey frame
  have restored : { t with v := s.v, lastKey := s.lastKey, pc := s.pc } = s :=
    congrArg (fun u : State => { u with lastKey := s.lastKey }) frame
  exact ⟨t, (execLoadVxKey_of_key x key).trans answer, restored, pc, consumed, value, others⟩

end Sys2Proof.Machine
end

section
/-! Re-encoding what was decoded. Every mask of the catalog keeps the top nibble, and each row reads all bits its mask
drops (the ignored ones included, log entry 8), so the opcode comes back. -/

namespace Sys2Proof

/-! ### Fields that a mask keeps whole -/

/-- Bits that the mask keeps are the pattern's in every opcode that matches. -/
theorem extractLsb'_of_match {op mask pattern : Word} {start len : Nat}
    (kept : mask.extractLsb' start len = BitVec.allOnes len) (hop : op &&& mask = pattern) :
    pattern.extractLsb' start len = op.extractLsb' start len := by
  rw [← hop, BitVec.extractLsb'_and, kept, BitVec.and_allOnes]

theorem fieldTop_of_match {op mask pattern : Word} (kept : fieldTop mask = 0xF) (hop : op &&& mask = pattern) :
    fieldTop pattern = fieldTop op := extractLsb'_of_match kept hop

theorem fieldN_of_match {op mask pattern : Word} (kept : fieldN mask = 0xF) (hop : op &&& mask = pattern) :
    fieldN pattern = fieldN op := extractLsb'_of_match kept hop

theorem fieldKK_of_match {op mask pattern : Word} (kept : fieldKK mask = 0xFF) (hop : op &&& mask = pattern) :
    fieldKK pattern = fieldKK op := extractLsb'_of_match kept hop

/-! ### The shapes of a row: what it reads into an instruction is encoded at the place it was read from -/

/-- The entry's instruction has the opcode it was read from. -/
def Entry.KeepsOpcode (m : Mask59) (e : Entry) : Prop :=
  ∀ op : Word, op &&& e.maskFor m = e.pattern → encode (e.read op) = op

section
variable {m : Mask59} {e : Entry}

theorem Entry.KeepsOpcode.whole (mask : e.maskFor m = 0xFFFF) (encoded : ∀ op, encode (e.read op) = e.pattern) :
    e.KeepsOpcode m := by
  intro op hop
  rw [encoded, ← hop, mask]
  exact BitVec.and_allOnes

theorem Entry.KeepsOpcode.addr (kept : fieldTop (e.maskFor m) = 0xF)
    (encoded : ∀ op, encode (e.read op) = encAddr (fieldTop e.pattern) (fieldAddr op)) : e.KeepsOpcode m := by
  intro op hop
  rw [encoded, fieldTop_of_match kept hop, encAddr_fields]

theorem Entry.KeepsOpcode.xkk (kept : fieldTop (e.maskFor m) = 0xF)
    (encoded : ∀ op, encode (e.read op) = encXKK (fieldTop e.pattern) (fieldX op) (fieldKK op)) : e.KeepsOpcode m := by
  intro op hop
  rw [encoded, fieldTop_of_match kept hop, encXKK_fields]

theorem Entry.KeepsOpcode.xkkLow (kept : fieldTop (e.maskFor m) = 0xF) (keptLow : fieldKK (e.maskFor m) = 0xFF)
    (encoded : ∀ op, encode (e.read op) = encXKK (fieldTop e.pattern) (fieldX op) (fieldKK e.pattern)) :
    e.KeepsOpcode m := by
  intro op hop
  rw [encoded, fieldTop_of_match kept hop, fieldKK_of_match keptLow hop, encXKK_fields]

theorem Entry.KeepsOpcode.xyn (kept : fieldTop (e.maskFor m) = 0xF)
    (encoded : ∀ op, encode (e.read op) = encXYN (fieldTop e.pattern) (fieldX op) (fieldY op) (fieldN op)) :
    e.KeepsOpcode m := by
  intro op hop
  rw [encoded, fieldTop_of_match kept hop, encXYN_fields]

theorem Entry.KeepsOpcode.xynLow (kept : fieldTop (e.maskFor m) = 0xF) (keptLow : fieldN (e.maskFor m) = 0xF)
    (encoded : ∀ op, encode (e.read op) = encXYN (fieldTop e.pattern) (fieldX op) (fieldY op) (fieldN e.pattern)) :
    e.KeepsOpcode m := by
  intro op hop
  rw [encoded, fieldTop_of_match kept hop, fieldN_of_match keptLow hop, encXYN_fields]

end

/-- The rows of R68 in order, each by the shape of its opcode. -/
theorem catalog_keepsOpcode (m : Mask59) : ∀ e ∈ catalog, e.KeepsOpcode m := by
  refine List.forall_iff_forall_mem.mp ?_
  cases m <;> exact ⟨
    -- rows 1 to 9
    .whole rfl fun _ => rfl, .whole rfl fun _ => rfl, .addr rfl fun _ => rfl, .addr rfl fun _ => rfl,
    .xkk rfl fun _ => rfl, .xkk rfl fun _ => rfl, .xyn rfl fun _ => rfl, .xkk rfl fun _ => rfl, .xkk rfl fun _ => rfl,
    -- rows 10 to 18: family 0x8
    .xynLow rfl rfl fun _ => rfl, .xynLow rfl rfl fun _ => rfl, .xynLow rfl rfl fun _ => rfl,
    .xynLow rfl rfl fun _ => rfl, .xynLow rfl rfl fun _ => rfl, .xynLow rfl rfl fun _ => rfl,
    .xynLow rfl rfl fun _ => rfl, .xynLow rfl rfl fun _ => rfl, .xynLow rfl rfl fun _ => rfl,
    -- rows 19 to 25
    .xyn rfl fun _ => rfl, .addr rfl fun _ => rfl, .addr rfl fun _ => rfl, .xkk rfl fun _ => rfl,
    .xkkLow rfl rfl fun _ => rfl, .xkkLow rfl rfl fun _ => rfl, .xyn rfl fun _ => rfl,
    -- rows 26 to 34: family 0xF
    .xkkLow rfl rfl fun _ => rfl, .xkkLow rfl rfl fun _ => rfl, .xkkLow rfl rfl fun _ => rfl,
    .xkkLow rfl rfl fun _ => rfl, .xkkLow rfl rfl fun _ => rfl, .xkkLow rfl rfl fun _ => rfl,
    .xkkLow rfl rfl fun _ => rfl, .xkkLow rfl rfl fun _ => rfl, .xkkLow rfl rfl fun _ => rfl⟩

/-- An opcode that decodes is the opcode of the instruction it decodes to. -/
theorem encode_of_decodeWord {op : Word} {i : Instr} (decoded : decodeWord op = some i) : encode i = op := by
  obtain ⟨e, found, rfl⟩ := Option.map_eq_some_iff.mp decoded
  have he : e ∈ catalog := List.mem_of_find?_eq_some found
  have hop := (Entry.hits_iff (catalog_open59 e he) op).mp (List.find?_some (p := fun e : Entry => e.hits _ op) found)
  exact catalog_keepsOpcode _ e he op hop

end Sys2Proof
end

section
/-! Precise faults (spec/60_exceptions.md R201, R203): a meaning either leaves `halt` alone or answers the state before
it with the diagnostic put in. -/

namespace Sys2Proof.Machine

/-- The state after a fault of a step that fetched `op`: the diagnostic in `halt`, and every other field as in `s`. -/
def FaultOf (s : State) (op : Option Word) (t : State) : Prop :=
  ∃ kind addr, t = { s with halt := .faulted kind s.pc op addr }

/-! ### The shapes of a next state -/

theorem faultOf_of_raise {kind : FaultKind} {op : Option Word} {a : Option Nat} {s t : State}
    (h : raise kind op a s = .next t) : FaultOf s op t := by
  cases h
  exact ⟨kind, a, rfl⟩

theorem halt_of_next {s k t : State} (h : (.next k : Result) = .next t) (hk : k.halt = s.halt) : t.halt = s.halt := by
  cases h
  exact hk

theorem halt_or_fault_of_withSpan {op : Word} {len : Nat} {s k t : State} (h : withSpan op len s k = .next t)
    (hk : k.halt = s.halt) : t.halt = s.halt ∨ FaultOf s (some op) t := by
  obtain ⟨-, rfl⟩ | ⟨a, rfl⟩ := withSpan_cases h
  · exact .inl hk
  · exact .inr ⟨_, _, rfl⟩

theorem halt_or_fault_of_skipOnKey {op : Word} {x : Reg} {want : Bool} {s t : State}
    (h : skipOnKey op x want s = .next t) : t.halt = s.halt ∨ FaultOf s (some op) t := by
  by_cases key : (s.reg x).toNat < 16
  · exact .inl (halt_of_next ((skipOnKey_of_key key).symm.trans h) rfl)
  · exact .inr (faultOf_of_raise ((skipOnKey_of_no_key (by omega)).symm.trans h))

/-! ### Effects that leave `halt` alone -/

theorem drawSprite_halt (ord : AliasOrder) (x y : Reg) (n : Nat) (s : State) : (drawSprite ord x y n s).halt = s.halt :=
  (congrArg State.halt (drawSprite_frame ord x y n s) :)

theorem storeRange_halt (n : Nat) (s : State) : (storeRange n s).halt = s.halt :=
  (congrArg State.halt (storeRange_frame n s) :)

theorem loadRange_halt (n : Nat) (s : State) : (loadRange n s).halt = s.halt :=
  (congrArg State.halt (loadRange_frame n s) :)

/-! ### Instructions with a test of their own -/

theorem execReturn_halt_or_fault {s t : State} (h : exec .ret s = .next t) :
    t.halt = s.halt ∨ FaultOf s (some (encode .ret)) t := by
  simp only [exec, execReturn] at h
  split at h
  · exact .inr (faultOf_of_raise h)
  · split at h
    · exact .inl (halt_of_next h rfl)
    · exact nomatch h

theorem execCall_halt_or_fault {a : Addr} {s t : State} (h : exec (.call a) s = .next t) :
    t.halt = s.halt ∨ FaultOf s (some (encode (.call a))) t := by
  by_cases free : s.nextSlot < 16
  · exact .inl (halt_of_next ((execCall_of_free a free).symm.trans h) rfl)
  · exact .inr (faultOf_of_raise ((execCall_of_full a free).symm.trans h))

theorem execAddIndexVx_halt_or_fault {x : Reg} {s t : State} (h : exec (.addIndexVx x) s = .next t) :
    t.halt = s.halt ∨ FaultOf s (some (encode (.addIndexVx x))) t := by
  by_cases fits : s.i.toNat + (s.reg x).toNat < 0x10000
  · exact .inl (halt_of_next ((execAddIndexVx_of_fits fits).symm.trans h) rfl)
  · exact .inr (faultOf_of_raise ((execAddIndexVx_of_overflow fits).symm.trans h))

theorem execLoadVxKey_halt {x : Reg} {s t : State} (h : exec (.loadVxKey x) s = .next t) : t.halt = s.halt := by
  by_cases noKey : s.lastKey = 255
  · exact halt_of_next ((execLoadVxKey_of_noKey x noKey).symm.trans h) rfl
  · exact halt_of_next ((execLoadVxKey_of_key x noKey).symm.trans h) rfl

/-! ### Every instruction, then the step -/

/-- An instruction leaves `halt` alone, or faults with its own opcode. -/
theorem exec_halt_or_fault {i : Instr} {s t : State} (h : exec i s = .next t) :
    t.halt = s.halt ∨ FaultOf s (some (encode i)) t := by
  cases i with
  | clearScreen | jump | skipEqByte | skipNeByte | skipEqReg | loadByte | addByte | loadReg | orReg | andReg | xorReg
  | addReg | subReg | shiftRight | subnReg | shiftLeft | skipNeReg | loadIndex | jumpPlusV0 | random | loadVxDelay
  | loadDelayVx | loadSoundVx | loadFontVx => exact .inl (halt_of_next h rfl)
  | skipKeyPressed | skipKeyNotPressed => exact halt_or_fault_of_skipOnKey h
  | drawSprite => exact halt_or_fault_of_withSpan h (drawSprite_halt ..)
  | storeBCD => exact halt_or_fault_of_withSpan h rfl
  | storeRegisters => exact halt_or_fault_of_withSpan h (storeRange_halt ..)
  | loadRegisters => exact halt_or_fault_of_withSpan h (loadRange_halt ..)
  | ret => exact execReturn_halt_or_fault h
  | call => exact execCall_halt_or_fault h
  | addIndexVx => exact execAddIndexVx_halt_or_fault h
  | loadVxKey => exact .inl (execLoadVxKey_halt h)

/-- A step that ends halted faulted, at its fetch, at its decode or in the instruction, whose opcode is the fetched one. -/
theorem stepCall_fault {s t : State} (h : stepCall s = .next t) (halted : t.halt ≠ .running) :
    FaultOf { s with boot := false } s.fetch t := by
  obtain ⟨running, ⟨noFetch, rfl⟩ | ⟨op, fetched, -, rfl⟩ | ⟨op, i, fetched, decoded, executed⟩⟩ := stepCall_cases h
  · exact ⟨_, _, by rw [noFetch]⟩
  · exact ⟨_, _, by rw [fetched]⟩
  · obtain same | fault := exec_halt_or_fault executed
    · exact absurd (same.trans running) halted
    · rwa [encode_of_decodeWord decoded, ← fetched] at fault

/-- Settles O50: the pending `step(keys)` is an instruction step, which ends halted only by a fault; the fault's state is
the one before the step but for `halt` and what the call itself sets. -/
theorem faultsChangeOnlyHalt : Obligations.FaultsChangeOnlyHalt := by
  intro s t keys rest _ answer halted
  have stepped : stepCall { s with pending := rest, keys := keys } = .next t := answer
  obtain ⟨kind, addr, rfl⟩ := stepCall_fault stepped halted
  exact ⟨rfl, kind, addr, rfl⟩

end Sys2Proof.Machine
end

section
/-! The tick (spec/60_exceptions.md R211). -/

namespace Sys2Proof.Machine

/-- A timer's countdown as the number it leaves: truncated subtraction stops at 0. -/
theorem countdown_toNat (b : Byte) : (if b = 0 then 0 else b - 1).toNat = b.toNat - 1 := by
  split <;> bv_omega

/-- What `tick()` does to a running machine. -/
theorem tickCall_of_running {s : State} (running : s.halt = .running) :
    tickCall s = .next { s with
      dt := if s.dt = 0 then 0 else s.dt - 1
      st := if s.st = 0 then 0 else s.st - 1
      soundOn := if s.st = 1 then false else s.soundOn
      boot := false } := by
  rw [tickCall, if_pos running, countSound_eq, countDelay_eq]

/-- Settles O43: the pending `tick()` is answered by the two countdowns, and a halted machine answers none. -/
theorem tickCountsBothTimersDown : Obligations.TickCountsBothTimersDown := by
  refine fun s rest => ⟨fun running => ?_, fun halted => ?_⟩
  · have answer := (step_of_call s .tick rest).trans (tickCall_of_running running)
    have stops : s.st = 1 ↔ s.st.toNat = 1 := BitVec.toNat_inj.symm
    exact ⟨_, answer, rfl, countdown_toNat s.dt, countdown_toNat s.st, if_congr stops rfl rfl⟩
  · exact step_ne_next_of_halted halted .tick nofun nofun rest

end Sys2Proof.Machine
end

section
/-! The round trip of encoding and decoding (spec/30_encoding.md R61 to R70), the opcodes that decode to nothing (R72),
and the argument lists (R63, R69). Each statement is a fact about every row of the catalog, used at the row an opcode
matches. -/

namespace Sys2Proof

/-! ### Encoding, then decoding -/

/-- Every instruction's opcode matches the instruction's own row: the family `OwnRow` over all constructors. -/
theorem ownRow : ∀ i : Instr, Laws.OwnRow.Statement i
  | .clearScreen => Laws.OwnRow.clearScreen
  | .ret => Laws.OwnRow.ret
  | .jump a => Laws.OwnRow.jump a
  | .call a => Laws.OwnRow.call a
  | .skipEqByte x kk => Laws.OwnRow.skipEqByte x kk
  | .skipNeByte x kk => Laws.OwnRow.skipNeByte x kk
  | .skipEqReg x y n => Laws.OwnRow.skipEqReg x y n
  | .loadByte x kk => Laws.OwnRow.loadByte x kk
  | .addByte x kk => Laws.OwnRow.addByte x kk
  | .loadReg x y => Laws.OwnRow.loadReg x y
  | .orReg x y => Laws.OwnRow.orReg x y
  | .andReg x y => Laws.OwnRow.andReg x y
  | .xorReg x y => Laws.OwnRow.xorReg x y
  | .addReg x y => Laws.OwnRow.addReg x y
  | .subReg x y => Laws.OwnRow.subReg x y
  | .shiftRight x y => Laws.OwnRow.shiftRight x y
  | .subnReg x y => Laws.OwnRow.subnReg x y
  | .shiftLeft x y => Laws.OwnRow.shiftLeft x y
  | .skipNeReg x y n => Laws.OwnRow.skipNeReg x y n
  | .loadIndex a => Laws.OwnRow.loadIndex a
  | .jumpPlusV0 a => Laws.OwnRow.jumpPlusV0 a
  | .random x kk => Laws.OwnRow.random x kk
  | .skipKeyPressed x => Laws.OwnRow.skipKeyPressed x
  | .skipKeyNotPressed x => Laws.OwnRow.skipKeyNotPressed x
  | .drawSprite x y n => Laws.OwnRow.drawSprite x y n
  | .loadVxDelay x => Laws.OwnRow.loadVxDelay x
  | .loadVxKey x => Laws.OwnRow.loadVxKey x
  | .loadDelayVx x => Laws.OwnRow.loadDelayVx x
  | .loadSoundVx x => Laws.OwnRow.loadSoundVx x
  | .addIndexVx x => Laws.OwnRow.addIndexVx x
  | .loadFontVx x => Laws.OwnRow.loadFontVx x
  | .storeBCD x => Laws.OwnRow.storeBCD x
  | .storeRegisters x => Laws.OwnRow.storeRegisters x
  | .loadRegisters x => Laws.OwnRow.loadRegisters x

/-- Settles O1: the opcode of a well-formed instruction matches the instruction's own row, and an opcode decodes to what
any row it matches reads. -/
theorem decodeOfEncodeIsTheInstruction : Obligations.DecodeOfEncodeIsTheInstruction :=
  fun i wf => decodeWord_encode_of_ownRow (ownRow i) wf

/-! ### Decoding, then encoding -/

/-- What an opcode decodes to was read by a row it matches. -/
theorem match_of_decodeWord {op : Word} {i : Instr} (decoded : decodeWord op = some i) :
    ∃ e ∈ catalog, op &&& e.maskFor Config.mask59 = e.pattern ∧ i = e.read op := by
  obtain ⟨e, found, rfl⟩ := Option.map_eq_some_iff.mp decoded
  have he : e ∈ catalog := List.mem_of_find?_eq_some found
  have hits := List.find?_some (p := fun e : Entry => e.hits Config.mask59 op) found
  exact ⟨e, he, (Entry.hits_iff (catalog_open59 e he) op).mp hits, rfl⟩

/-- Rows 7 and 19 read a low nibble, which the mask 0xF00F forces to 0; the other rows read nothing that could be ill
formed. -/
theorem catalog_reads_wellFormed (m : Mask59) (op : Word) :
    ∀ e ∈ catalog, op &&& e.maskFor m = e.pattern → (e.read op).wellFormedFor m = true := by
  have lowNibble {pattern : Word} (low : fieldN pattern = 0) (hop : op &&& 0xF00F = pattern) : fieldN op = 0 :=
    (fieldN_of_match rfl hop).symm.trans low
  cases m with
  | coarse => simp [catalog, catalogA, catalogB, catalogC, catalogD, Instr.wellFormedFor]
  | fine =>
    simpa [catalog, catalogA, catalogB, catalogC, catalogD, Instr.wellFormedFor, Entry.maskFor, Mask59.word] using
      And.intro (lowNibble (pattern := 0x5000) rfl) (lowNibble (pattern := 0x9000) rfl)

/-- Settles O2: the row that reads the instruction gives a well-formed one, and its opcode is the one it was read from. -/
theorem encodeOfDecodeIsTheOpcode : Obligations.EncodeOfDecodeIsTheOpcode := by
  intro op i decoded
  obtain ⟨e, he, hop, rfl⟩ := match_of_decodeWord decoded
  exact ⟨catalog_reads_wellFormed _ op e he hop, encode_of_decodeWord decoded⟩

/-! ### Illegal opcodes (R72): the masks of the catalog as arithmetic -/

theorem fieldTop_toNat (op : Word) : (fieldTop op).toNat = op.toNat / 0x1000 := by
  have := op.isLt
  rw [fieldTop, BitVec.extractLsb'_toNat, Nat.shiftRight_eq_div_pow]
  omega

theorem fieldN_toNat (op : Word) : (fieldN op).toNat = op.toNat % 0x10 := BitVec.extractLsb'_toNat ..

theorem fieldKK_toNat (op : Word) : (fieldKK op).toNat = op.toNat % 0x100 := BitVec.extractLsb'_toNat ..

theorem and_whole (op : Word) : op &&& 0xFFFF = op := BitVec.and_allOnes

theorem and_top_toNat (op : Word) : (op &&& 0xF000).toNat = op.toNat / 0x1000 * 0x1000 := by
  conv_lhs => rw [← encXYN_fields op, encXYN_and_top, encXYN_toNat, fieldTop_toNat]
  simp

theorem and_topLow_toNat (op : Word) : (op &&& 0xF00F).toNat = op.toNat / 0x1000 * 0x1000 + op.toNat % 0x10 := by
  conv_lhs => rw [← encXYN_fields op, encXYN_and_low, encXYN_toNat, fieldTop_toNat, fieldN_toNat]
  simp

theorem and_topByte_toNat (op : Word) : (op &&& 0xF0FF).toNat = op.toNat / 0x1000 * 0x1000 + op.toNat % 0x100 := by
  conv_lhs => rw [← encXKK_fields op, encXKK_and_low, encXKK_toNat, fieldTop_toNat, fieldKK_toNat]
  simp

/-- The bits that `MASK_5_9` keeps: the low nibble under the fine mask alone. -/
theorem and_mask59_toNat (m : Mask59) (op : Word) :
    (op &&& m.word).toNat = op.toNat / 0x1000 * 0x1000 + if m = .fine then op.toNat % 0x10 else 0 := by
  cases m with
  | fine => rw [Mask59.word, and_topLow_toNat, if_pos rfl]
  | coarse => rw [Mask59.word, and_top_toNat, if_neg nofun, Nat.add_zero]

/-- Settles O4: an opcode fails to decode when it misses all 34 patterns. Said of the opcode as a number, that is a
condition on its top nibble and, in the families 0x0, 0x5, 0x8, 0x9, 0xE and 0xF, on its low nibble or byte; in 0x5 and
0x9 it is one on the low nibble as far as `MASK_5_9` keeps it. -/
theorem illegalOpcodesAreTheListedOnes : Obligations.IllegalOpcodesAreTheListedOnes := by
  intro m op
  have family : op.toNat / 0x1000 < 16 := by omega
  have kept : (¬op.toNat % 0x10 = 0 ∧ m = .fine) ↔ ¬(if m = .fine then op.toNat % 0x10 else 0) = 0 := by
    simp [and_comm]
  have keptRange : (if m = .fine then op.toNat % 0x10 else 0) < 16 := by split <;> omega
  rw [decodeWordFor_eq_none_iff]
  simp only [catalog, catalogA, catalogB, catalogC, catalogD, List.forall_mem_append, List.forall_mem_cons,
    Entry.maskFor, Bool.false_eq_true, if_false, if_true, illegalOpcode, ne_eq, ← BitVec.toNat_inj, and_whole,
    and_top_toNat, and_topLow_toNat, and_topByte_toNat, and_mask59_toNat, kept]
  generalize (if m = .fine then op.toNat % 0x10 else 0) = low at *
  generalize topNibble : op.toNat / 0x1000 = top at *
  interval_cases top <;> simp <;> omega

/-! ### Arguments (R63, R69, R70) -/

/-- A rule whose mask, shifted down, is `len` ones extracts the field of `len` bits at its shift. -/
theorem ArgRule.apply_eq_field {r : ArgRule} {len : Nat}
    (mask : r.mask >>> r.shift = (BitVec.allOnes len).setWidth 16) (op : Word) :
    r.apply op = (op.extractLsb' r.shift len).setWidth 8 := by
  rw [ArgRule.apply, BitVec.ushiftRight_and_distrib, mask]
  ext k hk
  simp [Bool.and_comm]

theorem rulesX_apply (op : Word) : rulesX.map (fun r => r.apply op) = [argOfNibble (fieldX op)] :=
  congrArg (fun a => [a]) (ArgRule.apply_eq_field (len := 4) rfl op)

theorem rulesXY_apply (op : Word) :
    rulesXY.map (fun r => r.apply op) = [argOfNibble (fieldX op), argOfNibble (fieldY op)] :=
  congrArg₂ List.cons (ArgRule.apply_eq_field (len := 4) rfl op)
    (congrArg (fun a => [a]) (ArgRule.apply_eq_field (len := 4) rfl op))

theorem rulesXYN_apply (op : Word) :
    rulesXYN.map (fun r => r.apply op) = [argOfNibble (fieldX op), argOfNibble (fieldY op), argOfNibble (fieldN op)] :=
  congrArg₂ List.cons (ArgRule.apply_eq_field (len := 4) rfl op)
    (congrArg₂ List.cons (ArgRule.apply_eq_field (len := 4) rfl op)
      (congrArg (fun a => [a]) (ArgRule.apply_eq_field (len := 4) rfl op)))

theorem rulesXKK_apply (op : Word) :
    rulesXKK.map (fun r => r.apply op) = [argOfNibble (fieldX op), fieldKK op] :=
  congrArg₂ List.cons (ArgRule.apply_eq_field (len := 4) rfl op)
    (congrArg (fun a => [a]) ((ArgRule.apply_eq_field (len := 8) rfl op).trans (BitVec.setWidth_eq _)))

/-- The two argument bytes of an address are its `x` and its `kk` (R70). -/
theorem argsOfAddr_fieldAddr (op : Word) : argsOfAddr (fieldAddr op) = [argOfNibble (fieldX op), fieldKK op] := by
  rw [argsOfAddr, fieldAddr, BitVec.extractLsb'_extractLsb'_of_le (by decide),
    BitVec.extractLsb'_extractLsb'_of_le (by decide)]
  rfl

theorem rulesAddr_apply (op : Word) : rulesAddr.map (fun r => r.apply op) = argsOfAddr (fieldAddr op) :=
  (rulesXKK_apply op).trans (argsOfAddr_fieldAddr op).symm

/-- The argument list of what a row reads is what its rules extract, row by row. -/
theorem catalog_args (op : Word) : ∀ e ∈ catalog, (e.read op).args = e.rules.map (fun r => r.apply op) := by
  simp [catalog, catalogA, catalogB, catalogC, catalogD, Instr.args, rulesNone, rulesX_apply, rulesXY_apply,
    rulesXYN_apply, rulesXKK_apply, rulesAddr_apply]

theorem catalog_rules_length : ∀ e ∈ catalog, e.rules.length ≤ 3 := by decide

theorem catalog_rules_bits : ∀ e ∈ catalog, ∀ r ∈ e.rules, r.mask.toNat >>> r.shift < 0x100 := by decide

/-- A mask of at most 8 bits extracts at most 8 bits. -/
theorem ArgRule.extracted_lt {r : ArgRule} (bits : r.mask.toNat >>> r.shift < 0x100) (op : Word) :
    ((op &&& r.mask) >>> r.shift).toNat < 0x100 := by
  rw [BitVec.toNat_ushiftRight, BitVec.toNat_and, Nat.shiftRight_and_distrib]
  exact Nat.and_le_right.trans_lt bits

/-- Settles O6: the row the opcode matches reads the instruction, whose arguments are what the row's rules extract; no row
has more than three rules, and none has a mask of more than 8 bits. -/
theorem decodedArgumentsFollowTheRules : Obligations.DecodedArgumentsFollowTheRules := by
  intro op i decoded
  obtain ⟨e, he, hop, rfl⟩ := match_of_decodeWord decoded
  have args := catalog_args op e he
  have count : (e.read op).args.length ≤ 3 := by
    rw [args, List.length_map]
    exact catalog_rules_length e he
  exact ⟨e, he, hop, rfl, args, count, fun r hr => ArgRule.extracted_lt (catalog_rules_bits e he r hr) op⟩

/-- Settles O5: eight fixed words, evaluated. -/
theorem specWordsDecode : Obligations.SpecWordsDecode := by
  unfold Obligations.SpecWordsDecode
  decide

end Sys2Proof
end

section
/-! The transactions: an instruction step (spec/30_encoding.md R75), `load` and the host's write of `last_key`
(spec/70_reset_and_hazards.md R251, R260), and the successful end (R261). -/

namespace Sys2Proof.Machine

/-! ### An instruction step -/

/-- A running machine whose opcode decodes runs the instruction, and the boot phase is over. -/
theorem stepCall_of_decodeWord {s : State} {op : Word} {i : Instr} (running : s.halt = .running)
    (fetched : s.fetch = some op) (decoded : decodeWord op = some i) : stepCall s = exec i { s with boot := false } := by
  simp only [stepCall, if_pos running, fetched, runWord_eq, decoded]

/-- Two bytes decode to what their opcode decodes to. -/
theorem decodeWord_of_decode {hi lo : Byte} {i : Instr} {rest : List Byte} (decoded : decode [hi, lo] = .ok (i, rest)) :
    decodeWord (wordOfBytes hi lo) = some i := by
  rw [decode_two] at decoded
  cases found : decodeWord (wordOfBytes hi lo) with
  | none =>
    rw [found] at decoded
    exact nomatch decoded
  | some j =>
    rw [found] at decoded
    cases decoded
    rfl

/-- The transaction of a machine with a call pending. -/
theorem step_of_pending {s : State} {c : HostCall} {rest : List HostCall} (call : s.pending = c :: rest) :
    step s = perform c { s with pending := rest } := by
  rw [step, transact, call]

/-- Settles O9: inside memory the fetch gives the opcode of the two bytes, so either way of stepping is the instruction
step of a running machine whose opcode decodes. -/
theorem stepRunsDecodedInstruction : Obligations.StepRunsDecodedInstruction := by
  intro s i running inside decoded
  have fetched := fetch_of_inside (s := s) (by omega)
  have found := decodeWord_of_decode decoded
  refine ⟨fun noCall => ?_, fun keys rest call => ?_⟩
  · rw [step_of_no_call noCall, stepCall_of_decodeWord running fetched found]
  · exact (step_of_pending call).trans
      (stepCall_of_decodeWord (s := { s with pending := rest, keys := keys }) running fetched found)

/-! ### Load and the host's write -/

theorem loadCall_of_boot {image : List Byte} {s : State} (boot : s.boot = true) (running : s.halt = .running)
    (size : image.length = 4096) : loadCall image s = .next { s with mem := Memory.ofImage 0 image } :=
  (if_pos ⟨boot, running⟩).trans (if_pos size)

/-- A load that answers a next state had an image of 4096 bytes and was in the boot phase. -/
theorem load_cases {image : List Byte} {s t : State} (loaded : perform (.load image) s = .next t) :
    image.length = 4096 ∧ s.boot = true := by
  obtain ⟨⟨⟩, -⟩ | ⟨_, ⟨⟩, boot, -, size, -⟩ | ⟨_, ⟨⟩, -⟩ | ⟨⟨⟩, -⟩ | ⟨_, ⟨⟩, -⟩ := perform_cases loaded
  exact ⟨size, boot⟩

/-- Settles O45: in the boot phase memory becomes the image laid out from address 0, and a load that answers a next state
was one of 4096 bytes in the boot phase. -/
theorem loadReplacesMemory : Obligations.LoadReplacesMemory := by
  refine fun s image rest => ⟨fun boot running size => ?_, fun bad t loaded => ?_⟩
  · have answer : step { s with pending := .load image :: rest } = _ := loadCall_of_boot boot running size
    refine ⟨_, answer, rfl, rfl, Memory.wf_ofImage size, fun a inside => ?_⟩
    have bytes := Memory.read_ofImage image 0 a inside (by rw [size]; decide)
    rwa [Nat.zero_add] at bytes
  · obtain ⟨size, boot⟩ := load_cases loaded
    exact bad.elim (absurd size) (fun past => absurd (past.symm.trans boot) nofun)

/-- The values a host may write, as R260 lists them. -/
theorem lastKeyAllowed_iff {key : Byte} : lastKeyAllowed key = true ↔ key.toNat < 16 ∨ key = 255 := by
  simp [lastKeyAllowed, Config.noneKey]

/-- Settles O46: the call writes `last_key` exactly when the value is one that R260 lists. -/
theorem hostWritesLastKey : Obligations.HostWritesLastKey := by
  refine fun s key rest => ⟨fun legal => ?_, fun ⟨tooLarge, notNone⟩ t written => ?_⟩
  · have allowed : lastKeyAllowed key = true := lastKeyAllowed_iff.mpr (legal.imp_left Nat.lt_succ_of_le)
    exact if_pos allowed
  · have refused : ¬ lastKeyAllowed key = true := fun allowed =>
      (lastKeyAllowed_iff.mp allowed).elim (by omega) notNone
    exact nomatch (if_neg refused).symm.trans written

/-! ### The successful end -/

/-- A pc inside memory is its own address field. -/
theorem zextAddr_fieldAddr {pc : Word} (inside : pc.toNat ≤ 0xFFE) : zextAddr (fieldAddr pc) = pc := by
  apply BitVec.eq_of_toNat_eq
  rw [zextAddr_toNat, fieldAddr, BitVec.extractLsb'_toNat, Nat.shiftRight_zero]
  omega

/-- The opcode of R261, the jump to a pc inside memory. -/
theorem encode_selfJump {pc : Word} (inside : pc.toNat ≤ 0xFFE) :
    encode (.jump (fieldAddr pc)) = 0x1000 ||| pc := by
  have sum : 0x1000 + pc.toNat = 0x1000 ||| pc.toNat := Nat.two_pow_add_eq_or_of_lt (i := 12) (by omega) 1
  have number : (encode (.jump (fieldAddr pc))).toNat = 0x1000 + (fieldAddr pc).toNat := encAddr_toNat 0x1 _
  apply BitVec.eq_of_toNat_eq
  rw [number, ← zextAddr_toNat, zextAddr_fieldAddr inside, BitVec.toNat_or, sum]
  rfl

/-- An instruction step of a machine at a successful end leaves it there: it is a jump to where the pc is. -/
theorem stepCall_of_ended {s : State} (ended : s.ended) : stepCall s = .next { s with boot := false } := by
  obtain ⟨running, inside, fetched⟩ := ended
  rw [← encode_selfJump inside] at fetched
  rw [stepCall_of_decodeWord running fetched (decodeOfEncodeIsTheInstruction _ rfl)]
  exact congrArg (fun pc => (.next { s with pc := pc, boot := false } : Result)) (zextAddr_fieldAddr inside)

/-- Settles O47: pending `step(keys)` or none, the transaction is an instruction step at a successful end, and being at one
depends on neither the keys, nor the calls to come, nor the boot phase. -/
theorem endStateRepeats : Obligations.EndStateRepeats := by
  refine fun s ended => ⟨fun keys rest call => ⟨?_, ended⟩, fun noCall => ⟨?_, ended⟩⟩
  · exact (step_of_pending call).trans (stepCall_of_ended (s := { s with pending := rest, keys := keys }) ended)
  · exact (step_of_no_call noCall).trans (stepCall_of_ended ended)

end Sys2Proof.Machine
end

section
/-! Return after Call (spec/41_control_flow.md R114). -/

namespace Sys2Proof.Machine

/-- A pop from the slot of a push gives back the stack pointer before the push. -/
theorem spBelow_of_push {s t : State} (hasSlot : s.sp = 0xFF ∨ s.sp.toNat < 15) (pushed : t.sp.toNat = s.nextSlot) :
    t.spBelow = s.sp := by
  apply BitVec.eq_of_toNat_eq
  rw [t.spBelow_toNat, pushed, s.nextSlot_eq]
  obtain empty | slot := hasSlot
  · simp [empty]
  · have notEmpty : s.sp.toNat ≠ 0xFF := by omega
    rw [if_neg notEmpty, if_neg (Nat.succ_ne_zero _), Nat.add_sub_cancel]

/-- Settles O19: the Call was a push, and the Return pops the slot it filled. -/
theorem returnAfterCallResumesBehindIt : Obligations.ReturnAfterCallResumesBehindIt := by
  intro addr s t p hasSlot called
  have free : s.nextSlot < 16 := s.nextSlot_lt_iff.mpr (hasSlot.imp_left (congrArg BitVec.toNat))
  cases (execCall_of_free addr free).symm.trans called
  have slot := s.pushAt_sp_toNat free (s.pc + 2)
  have sp := spBelow_of_push hasSlot slot
  have returned := execReturn_of_slot (s := { s.pushAt s.nextSlot free (s.pc + 2) with pc := p }) (slot.trans_lt free)
  have resumed := (congrArg _ slot).trans (s.pushAt_stack_same free (s.pc + 2))
  rw [Vector.getElem?_eq_getElem (slot.trans_lt free), Option.some_inj] at resumed
  exact ⟨_, returned, resumed, sp, congrArg (fun sp => { s with sp := sp }) sp⟩

end Sys2Proof.Machine
end

section
/-! What a store leaves in memory for a later load and for the next fetch (spec/44_index_memory.md R154, R155,
spec/20_memory.md R52). -/

namespace Sys2Proof.Machine

/-- Settles O38: the store leaves `i` alone and puts V0 to Vx into memory, from where the load takes them. -/
theorem loadRegistersRestoresStoredRange : Obligations.LoadRegistersRestoresStoredRange := by
  intro x s t w p wf fits stored
  obtain ⟨t', answer, frame, -, inMemory, -⟩ := (storeRegistersStoresTheRange.2 x s wf).1 fits
  cases answer.symm.trans stored
  have index : t.i = s.i := (congrArg State.i frame :)
  obtain ⟨u, loaded, frame', pc, registers, -⟩ :=
    (loadRegistersLoadsTheRange.2 x { t with v := w, pc := p }).1 (by rw [index]; exact fits)
  refine ⟨u, loaded, (congrArg State.i frame' :).trans index, pc, fun r upToX => ?_⟩
  rw [registers r upToX, ← inMemory r upToX, ← index]
  rfl

/-- A fetch at `i` composes the two bytes that stand at `i` and `i + 1`. -/
theorem fetch_eq_ofNat {t : State} {i : Word} {hi lo : Nat} (pc : t.pc = i) (inside : i.toNat + 1 ≤ 0xFFF)
    (first : (t.readMem i.toNat).toNat = hi) (second : (t.readMem (i.toNat + 1)).toNat = lo) :
    t.fetch = some (BitVec.ofNat 16 (hi * 0x100 + lo)) := by
  subst pc
  rw [(fetchIsBigEndianAndBounded t).1 inside, first, second]

/-- Settles O39: either store puts its first two bytes at `i`, which is where it leaves the pc. -/
theorem storeIsSeenByTheNextFetch : Obligations.StoreIsSeenByTheNextFetch := by
  intro x s wf behind inside
  have index : s.i.toNat = s.pc.toNat + 2 := by rw [behind]; bv_omega
  refine ⟨fun atLeastTwo fits => ?_, ?_⟩
  · obtain ⟨t, stored, -, pc, bytes, -⟩ := (storeRegistersStoresTheRange.2 x s wf).1 fits
    exact ⟨t, stored, fetch_eq_ofNat (pc.trans behind.symm) (by omega)
      (congrArg BitVec.toNat (bytes 0 (Nat.zero_le _))) (congrArg BitVec.toNat (bytes 1 atLeastTwo))⟩
  · obtain ⟨t, stored, -, pc, hundreds, tens, -, -⟩ := (storeBCDStoresThreeDigits.2 x s wf).1 (by omega)
    exact ⟨t, stored, fetch_eq_ofNat (pc.trans behind.symm) (by omega) hundreds tens⟩

end Sys2Proof.Machine
end

section
/-! Random (spec/43_alu.md R143). -/

namespace Sys2Proof.Machine

/-- Settles O31: its row of the catalog gives the encoding, and the meaning writes the bitwise and in the state whose
counter is advanced already. -/
theorem randomMasksAFreeByte : Obligations.RandomMasksAFreeByte := by
  refine ⟨encodes_of_row 21 _ rfl, fun x kk s => ?_⟩
  obtain ⟨t, answer, frame, pc, bits, others⟩ := writeReg_bits x (w := Config.randomByte s.draws &&& kk)
    (fun _ => BitVec.getLsbD_and) { s with draws := s.draws + 1 }
  have restored : { t with v := s.v, pc := s.pc, draws := s.draws } = s :=
    congrArg (fun u : State => { u with draws := s.draws }) frame
  have drawn : t.draws = s.draws + 1 := (congrArg State.draws frame :)
  exact ⟨t, answer, restored, pc, drawn, bits, others⟩

end Sys2Proof.Machine
end

section
/-! What an instruction leaves alone (spec/10_state.md R22, R34), said once for all 34 kinds: every element that R34 does
not let the kind write. A kind's next state is a record update, so an element it does not mention is kept by `rfl`. -/

namespace Sys2Proof.Machine

/-- `t` has every element of `s` that R34 does not let `i` write. The pc and `halt` are said by `exec_pc` and
`exec_halt_or_fault`. -/
structure KeepsUnnamed (i : Instr) (s t : State) : Prop where
  reg : ∀ r, i.mayWrite r = false → t.reg r = s.reg r := by exact fun _ _ => rfl
  mem : ¬ storesMemory i → t.mem = s.mem := by exact fun _ => rfl
  index : ¬ writesIndex i → t.i = s.i := by exact fun _ => rfl
  stack : (∀ a, i ≠ .call a) → t.stack = s.stack := by exact fun _ => rfl
  sp : ¬ writesSp i → t.sp = s.sp := by exact fun _ => rfl
  dt : (∀ x, i ≠ .loadDelayVx x) → t.dt = s.dt := by exact fun _ => rfl
  sound : (∀ x, i ≠ .loadSoundVx x) → t.st = s.st ∧ t.soundOn = s.soundOn := by exact fun _ => ⟨rfl, rfl⟩
  lastKey : (∀ x, i ≠ .loadVxKey x) → t.lastKey = s.lastKey := by exact fun _ => rfl
  fb : ¬ writesScreen i → t.fb = s.fb := by exact fun _ => rfl
  draws : (∀ x kk, i ≠ .random x kk) → t.draws = s.draws := by exact fun _ => rfl
  host : t.keys = s.keys ∧ t.boot = s.boot ∧ t.pending = s.pending := by exact ⟨rfl, rfl, rfl⟩

namespace KeepsUnnamed

variable {i : Instr} {s k t : State}

/-! ### The shapes of a next state -/

theorem of_next (h : (.next k : Result) = .next t) (kept : KeepsUnnamed i s k) : KeepsUnnamed i s t := by
  cases h
  exact kept

/-- A fault writes `halt` alone. -/
theorem of_fault {op : Option Word} (fault : FaultOf s op t) : KeepsUnnamed i s t := by
  obtain ⟨_, _, rfl⟩ := fault
  exact {}

theorem of_withSpan {op : Word} {len : Nat} (h : withSpan op len s k = .next t) (kept : KeepsUnnamed i s k) :
    KeepsUnnamed i s t := by
  obtain ⟨-, rfl⟩ | ⟨a, rfl⟩ := withSpan_cases h
  · exact kept
  · exact {}

theorem of_skipOnKey {op : Word} {x : Reg} {want : Bool} (h : skipOnKey op x want s = .next t) :
    KeepsUnnamed i s t := by
  by_cases key : (s.reg x).toNat < 16
  · exact .of_next ((skipOnKey_of_key key).symm.trans h) {}
  · exact .of_fault (faultOf_of_raise ((skipOnKey_of_no_key (by omega)).symm.trans h))

/-- Writing a register that `i` may write, and advancing. -/
theorem writeReg {x : Reg} {w : Byte} (kept : KeepsUnnamed i s k) (dest : ∀ r, i.mayWrite r = false → r ≠ x) :
    KeepsUnnamed i s (k.setReg x w).advance :=
  { kept with
    reg := fun r other => ((k.setReg_reg x w r).trans (if_neg (dest r other))).trans (kept.reg r other) }

/-- Writing a result and a flag, where `i` may write the result's register and VF. -/
theorem writeFlagged {ord : AliasOrder} {x y : Reg} {f g : Byte → Byte → Byte}
    (dest : ∀ r, i.mayWrite r = false → (r == x || r == 15) = false) :
    KeepsUnnamed i s (Machine.writeFlagged ord x y f g s).advance where
  reg r other := by
    obtain ⟨notX, notVF⟩ := Bool.or_eq_false_iff.mp (dest r other)
    exact writeFlagged_reg_other ord y f g s (ne_of_beq_false notX) (ne_of_beq_false notVF)

/-- Writing memory, where `i` may, and advancing. -/
theorem storeMem (stores : storesMemory i) (m : Memory) : KeepsUnnamed i s (State.advance { s with mem := m }) where
  mem other := absurd stores other

end KeepsUnnamed

/-! ### Effects that go through a loop, as record updates -/

theorem storeRange_eq (n : Nat) (s : State) : storeRange n s = { s with mem := (storeRange n s).mem } :=
  congrArg (fun u : State => { u with mem := (storeRange n s).mem }) (storeRange_frame n s)

theorem loadRange_eq (n : Nat) (s : State) : loadRange n s = { s with v := (loadRange n s).v } :=
  congrArg (fun u : State => { u with v := (loadRange n s).v }) (loadRange_frame n s)

theorem keepsUnnamed_storeDigits (x : Reg) (b : Byte) (s : State) :
    KeepsUnnamed (.storeBCD x) s (storeDigits b s).advance :=
  .storeMem (.inl ⟨x, rfl⟩) (storeDigits b s).mem

theorem keepsUnnamed_storeRange (x : Reg) (n : Nat) (s : State) :
    KeepsUnnamed (.storeRegisters x) s (storeRange n s).advance := by
  rw [storeRange_eq]
  exact .storeMem (.inr ⟨x, rfl⟩) _

theorem keepsUnnamed_loadRange (x : Reg) (s : State) :
    KeepsUnnamed (.loadRegisters x) s (loadRange (x.toNat + 1) s).advance := by
  have reg (r : Reg) (other : Instr.mayWrite r (.loadRegisters x) = false) :
      (loadRange (x.toNat + 1) s).advance.reg r = s.reg r := by
    have aboveX : ¬ r.toNat ≤ x.toNat := of_decide_eq_false other
    exact (loadRange_reg s r _ x.isLt).trans (if_neg (by omega))
  rw [loadRange_eq] at reg ⊢
  exact { reg }

theorem keepsUnnamed_drawSprite (x y : Reg) (n : Nibble) (s : State) :
    KeepsUnnamed (.drawSprite x y n) s (drawSprite Config.aliasOrder x y n.toNat s).advance := by
  have reg (r : Reg) (other : Instr.mayWrite r (.drawSprite x y n) = false) :
      (drawSprite Config.aliasOrder x y n.toNat s).advance.reg r = s.reg r :=
    drawSprite_reg Config.aliasOrder x y n.toNat s (ne_of_beq_false other)
  rw [drawSprite_eq_plotted] at reg ⊢
  exact { reg, fb := fun screen => absurd (.inr ⟨x, y, n, rfl⟩) screen }

/-! ### Instructions with a test of their own -/

theorem keepsUnnamed_ret {s t : State} (h : exec .ret s = .next t) : KeepsUnnamed .ret s t := by
  simp only [exec, execReturn] at h
  split at h
  · exact .of_fault (faultOf_of_raise h)
  · split at h
    · exact .of_next h { sp := fun writes => absurd (.inl rfl) writes }
    · exact nomatch h

theorem keepsUnnamed_call {a : Addr} {s t : State} (h : exec (.call a) s = .next t) : KeepsUnnamed (.call a) s t := by
  by_cases free : s.nextSlot < 16
  · exact .of_next ((execCall_of_free a free).symm.trans h)
      { stack := fun other => absurd rfl (other a), sp := fun writes => absurd (.inr ⟨a, rfl⟩) writes }
  · exact .of_fault (faultOf_of_raise ((execCall_of_full a free).symm.trans h))

theorem keepsUnnamed_addIndexVx {x : Reg} {s t : State} (h : exec (.addIndexVx x) s = .next t) :
    KeepsUnnamed (.addIndexVx x) s t := by
  by_cases fits : s.i.toNat + (s.reg x).toNat < 0x10000
  · exact .of_next ((execAddIndexVx_of_fits fits).symm.trans h)
      { index := fun writes => absurd (.inr (.inl ⟨x, rfl⟩)) writes }
  · exact .of_fault (faultOf_of_raise ((execAddIndexVx_of_overflow fits).symm.trans h))

theorem keepsUnnamed_loadVxKey {x : Reg} {s t : State} (h : exec (.loadVxKey x) s = .next t) :
    KeepsUnnamed (.loadVxKey x) s t := by
  by_cases noKey : s.lastKey = 255
  · exact .of_next ((execLoadVxKey_of_noKey x noKey).symm.trans h) {}
  · have consumed : KeepsUnnamed (.loadVxKey x) s s.consumeKey := { lastKey := fun other => absurd rfl (other x) }
    exact .of_next ((execLoadVxKey_of_key x noKey).symm.trans h) (consumed.writeReg fun _ => ne_of_beq_false)

/-! ### Every instruction -/

/-- An instruction keeps every element that R34 does not let it write, whether it faults or not. -/
theorem exec_keepsUnnamed {i : Instr} {s t : State} (h : exec i s = .next t) : KeepsUnnamed i s t := by
  cases i with
  | jump | jumpPlusV0 | skipEqByte | skipNeByte | skipEqReg | skipNeReg => exact .of_next h {}
  | skipKeyPressed | skipKeyNotPressed => exact .of_skipOnKey h
  | loadByte | addByte | loadReg | orReg | andReg | xorReg | loadVxDelay =>
    exact .of_next h (.writeReg {} fun _ => ne_of_beq_false)
  | random x kk =>
    have drawn : KeepsUnnamed (.random x kk) s { s with draws := s.draws + 1 } :=
      { draws := fun other => absurd rfl (other x kk) }
    exact .of_next h (drawn.writeReg fun _ => ne_of_beq_false)
  | addReg | subReg | shiftRight | subnReg | shiftLeft => exact .of_next h (.writeFlagged fun _ => id)
  | loadIndex a => exact .of_next h { index := fun writes => absurd (.inl ⟨a, rfl⟩) writes }
  | addIndexVx => exact keepsUnnamed_addIndexVx h
  | loadFontVx x => exact .of_next h { index := fun writes => absurd (.inr (.inr ⟨x, rfl⟩)) writes }
  | storeBCD x => exact .of_withSpan h (keepsUnnamed_storeDigits x _ s)
  | storeRegisters x => exact .of_withSpan h (keepsUnnamed_storeRange x _ s)
  | loadRegisters x => exact .of_withSpan h (keepsUnnamed_loadRange x s)
  | ret => exact keepsUnnamed_ret h
  | call => exact keepsUnnamed_call h
  | loadDelayVx x => exact .of_next h { dt := fun other => absurd rfl (other x) }
  | loadSoundVx x => exact .of_next h { sound := fun other => absurd rfl (other x) }
  | loadVxKey => exact keepsUnnamed_loadVxKey h
  | clearScreen => exact .of_next h { fb := fun screen => absurd (.inl rfl) screen }
  | drawSprite x y n => exact .of_withSpan h (keepsUnnamed_drawSprite x y n s)

/-- Settles O51: the registers' part of `exec_keepsUnnamed`. -/
theorem registersAreWrittenOnlyWhereNamed : Obligations.RegistersAreWrittenOnlyWhereNamed :=
  fun _ _ _ r h => (exec_keepsUnnamed h).reg r

/-- Settles O52: the other elements' part of `exec_keepsUnnamed`, memory read byte by byte. -/
theorem elementsAreWrittenOnlyWhereNamed : Obligations.ElementsAreWrittenOnlyWhereNamed := by
  intro i s t h
  have kept := exec_keepsUnnamed h
  exact ⟨fun stores a => congrArg (Memory.read · a) (kept.mem stores), kept.index, kept.stack, kept.sp, kept.dt,
    kept.sound, kept.lastKey, kept.fb, kept.draws, kept.host⟩

end Sys2Proof.Machine
end

section
/-! What no instruction reads (spec/10_state.md R28, R34, spec/60_exceptions.md R224): running an instruction commutes with
putting in another sound timer, sound and, unless it is a key skip, other keys. LoadSoundVx, which overwrites two of the
three, is the one kind apart. -/

namespace Sys2Proof.Machine

/-- The state with another sound timer, sound and keys. -/
def State.withUnread (s : State) (w : Byte) (b : Bool) (k : BitVec 16) : State :=
  { s with st := w, soundOn := b, keys := k }

/-- A result with its next state changed. -/
def mapNext (f : State → State) : Result → Result
  | .next t => .next (f t)
  | .fault r => .fault r
  | .refused r => .refused r

/-- A test that comes out alike, before two answers that correspond. -/
theorem mapNext_ite {f : State → State} {p : Prop} {dec dec' : Decidable p} {yes no yes' no' : Result}
    (hyes : yes' = mapNext f yes) (hno : no' = mapNext f no) :
    @ite _ p dec' yes' no' = mapNext f (@ite _ p dec yes no) := by
  by_cases h : p <;> simp [h, hyes, hno]

/-- The same for a test that the first answer needs as a proof. -/
theorem mapNext_dite {f : State → State} {p : Prop} {dec dec' : Decidable p} {yes yes' : p → Result} {no no' : Result}
    (hyes : ∀ h, yes' h = mapNext f (yes h)) (hno : no' = mapNext f no) :
    @dite _ p dec' yes' (fun _ => no') = mapNext f (@dite _ p dec yes fun _ => no) := by
  by_cases h : p <;> simp [h, hyes, hno]

section
variable (w : Byte) (b : Bool) (k : BitVec 16)

/-! ### Operations that commute -/

/-- The span check reads `i` alone. -/
theorem withSpan_withUnread {op : Word} {len : Nat} {s u u' : State} (alike : u' = u.withUnread w b k) :
    withSpan op len (s.withUnread w b k) u' = mapNext (·.withUnread w b k) (withSpan op len s u) := by
  have span : badAddress (s.withUnread w b k).i.toNat len = badAddress s.i.toNat len := rfl
  rw [alike, withSpan, withSpan, span]
  cases badAddress s.i.toNat len <;> rfl

/-- A key skip commutes with a change that leaves the keys alone. -/
theorem skipOnKey_withUnread (op : Word) (x : Reg) (want : Bool) (s : State) :
    skipOnKey op x want (s.withUnread w b s.keys) = mapNext (·.withUnread w b s.keys) (skipOnKey op x want s) :=
  mapNext_ite rfl rfl

theorem storeRange_withUnread (s : State) : ∀ n : Nat,
    storeRange n (s.withUnread w b k) = (storeRange n s).withUnread w b k
  | 0 => rfl
  | n + 1 => congrArg (State.writeMem · (s.i.toNat + n) (s.reg (BitVec.ofNat 4 n))) (storeRange_withUnread s n)

theorem loadRange_withUnread (s : State) : ∀ n : Nat,
    loadRange n (s.withUnread w b k) = (loadRange n s).withUnread w b k
  | 0 => rfl
  | n + 1 => congrArg (State.setReg · (BitVec.ofNat 4 n) (s.readMem (s.i.toNat + n))) (loadRange_withUnread s n)

/-- The pixel loop reads registers, `i`, memory and the framebuffer alone. -/
theorem drawSprite_withUnread (ord : AliasOrder) (x y : Reg) (n : Nat) (s : State) :
    drawSprite ord x y n (s.withUnread w b k) = (drawSprite ord x y n s).withUnread w b k := by
  rw [drawSprite_eq_plotted, drawSprite_eq_plotted]
  rfl

/-! ### Every instruction -/

/-- An instruction but LoadSoundVx runs alike with another sound timer and sound, and with other keys unless it reads
them. -/
theorem exec_withUnread {i : Instr} {s : State} (notSound : ∀ x, i ≠ .loadSoundVx x)
    (sameKeys : readsKeys i → k = s.keys) :
    exec i (s.withUnread w b k) = mapNext (·.withUnread w b k) (exec i s) := by
  cases i with
  | clearScreen | jump | skipEqByte | skipNeByte | skipEqReg | loadByte | addByte | loadReg | orReg | andReg | xorReg
  | addReg | subReg | shiftRight | subnReg | shiftLeft | skipNeReg | loadIndex | jumpPlusV0 | random | loadVxDelay
  | loadDelayVx | loadFontVx => rfl
  | ret => exact mapNext_ite rfl (mapNext_dite (fun _ => rfl) rfl)
  | call => exact mapNext_dite (fun _ => rfl) rfl
  | addIndexVx | loadVxKey => exact mapNext_ite rfl rfl
  | skipKeyPressed x =>
    obtain rfl := sameKeys (.inl ⟨x, rfl⟩)
    exact skipOnKey_withUnread w b _ x true s
  | skipKeyNotPressed x =>
    obtain rfl := sameKeys (.inr ⟨x, rfl⟩)
    exact skipOnKey_withUnread w b _ x false s
  | drawSprite =>
    exact withSpan_withUnread w b k (congrArg State.advance (drawSprite_withUnread w b k Config.aliasOrder _ _ _ s))
  | storeBCD => exact withSpan_withUnread w b k rfl
  | storeRegisters => exact withSpan_withUnread w b k (congrArg State.advance (storeRange_withUnread w b k s _))
  | loadRegisters => exact withSpan_withUnread w b k (congrArg State.advance (loadRange_withUnread w b k s _))
  | loadSoundVx x => exact absurd rfl (notSound x)

end

/-- Settles O53: LoadSoundVx writes both elements whatever they were; every other kind keeps the keys, and runs alike with
another sound timer and sound. -/
theorem soundIsUnobservable : Obligations.SoundIsUnobservable := by
  intro i s t w b h
  by_cases isSound : ∃ x, i = .loadSoundVx x
  · obtain ⟨x, rfl⟩ := isSound
    cases h
    exact ⟨_, rfl, rfl⟩
  · have alike : exec i (s.withUnread w b s.keys) = mapNext (·.withUnread w b s.keys) (exec i s) :=
      exec_withUnread w b s.keys (not_exists.mp isSound) fun _ => rfl
    have keys : t.keys = s.keys := (exec_keepsUnnamed h).host.1
    rw [h] at alike
    exact ⟨t.withUnread w b s.keys, alike, congrArg (fun k => { t with keys := k }) keys.symm⟩

/-- Settles O54: LoadSoundVx reads one register; every other kind keeps the sound timer and the sound, and runs alike with
other keys. -/
theorem onlyKeySkipsReadKeys : Obligations.OnlyKeySkipsReadKeys := by
  intro i s t k noKeys h
  by_cases isSound : ∃ x, i = .loadSoundVx x
  · obtain ⟨x, rfl⟩ := isSound
    cases h
    rfl
  · have notSound := not_exists.mp isSound
    have alike : exec i (s.withUnread s.st s.soundOn k) = mapNext (·.withUnread s.st s.soundOn k) (exec i s) :=
      exec_withUnread s.st s.soundOn k notSound fun reads => absurd reads noKeys
    obtain ⟨st, soundOn⟩ := (exec_keepsUnnamed h).sound notSound
    rw [h] at alike
    exact alike.trans (congrArg₂ (fun w b => (.next (t.withUnread w b k) : Result)) st.symm soundOn.symm)

end Sys2Proof.Machine
end

section
/-! The boot phase (spec/70_reset_and_hazards.md R251, R253). -/

namespace Sys2Proof.Machine

/-- An instruction step ends the boot phase, also where it faults. -/
theorem stepCall_boot {s t : State} (h : stepCall s = .next t) : t.boot = false := by
  obtain ⟨-, ⟨-, rfl⟩ | ⟨_, -, -, rfl⟩ | ⟨_, _, -, -, executed⟩⟩ := stepCall_cases h
  · rfl
  · rfl
  · exact (exec_keepsUnnamed executed).host.2.1

/-- Settles O56: `reset()` sets the phase in a running machine, where `load` is allowed; the phase after a transaction is
read off each case of what the transaction can be. -/
theorem bootPhaseIsFromResetToTheFirstStepOrTick : Obligations.BootPhaseIsFromResetToTheFirstStepOrTick := by
  refine ⟨fun s rest => ⟨resetCall { s with pending := rest }, rfl, rfl, fun image more size => ?_⟩,
    fun s rest running => ⟨_, (step_of_call s .tick rest).trans (tickCall_of_running running), rfl⟩, fun s t h => ?_⟩
  · obtain ⟨u, loaded, -⟩ := (loadReplacesMemory (resetCall { s with pending := rest }) image more).1 rfl rfl size
    exact ⟨u, loaded⟩
  · obtain ⟨noCall, stepped⟩ | ⟨c, rest, call, performed⟩ := step_cases h
    · rw [noCall]
      exact stepCall_boot stepped
    · rw [call]
      obtain ⟨rfl, rfl⟩ | ⟨_, rfl, -, -, -, rfl⟩ | ⟨_, rfl, stepped⟩ | ⟨rfl, -, rfl⟩ | ⟨_, rfl, -, rfl⟩ :=
        perform_cases performed
      · rfl
      · rfl
      · exact stepCall_boot stepped
      · rfl
      · rfl

end Sys2Proof.Machine
end

section
/-! The invariant of the machine (spec/10_state.md R23, R25, R26, spec/60_exceptions.md R201, R225, R260). An instruction
that is fetched keeps every clause: what R34 lets it write is checked kind by kind, the rest is `exec_keepsUnnamed`. Then
every transaction keeps it. -/

namespace Sys2Proof.Machine

/-! ### Instructions, clause by clause -/

section
variable {i : Instr} {s t : State} (inv : s.Inv) (h : exec i s = .next t)
include inv h

/-- A push leaves a slot index in `sp`, and a pop a slot index or the sentinel. -/
theorem exec_spLegal : t.sp.toNat < 16 ∨ t.sp = 0xFF := by
  by_cases writes : writesSp i
  · obtain rfl | ⟨a, rfl⟩ := writes
    · obtain slot | empty := inv.spLegal
      · cases (execReturn_of_slot slot).symm.trans h
        have popped := s.spBelow_toNat
        split at popped
        · exact .inr (BitVec.eq_of_toNat_eq popped)
        · exact .inl (popped.trans_lt (by omega))
      · cases (execReturn_of_empty empty).symm.trans h
        exact .inr empty
    · by_cases free : s.nextSlot < 16
      · cases (execCall_of_free a free).symm.trans h
        exact .inl ((s.pushAt_sp_toNat free (s.pc + 2)).trans_lt free)
      · cases (execCall_of_full a free).symm.trans h
        exact inv.spLegal
  · rw [(exec_keepsUnnamed h).sp writes]
    exact inv.spLegal

/-- A Call pushes the address behind itself, which is at most 0x1000. -/
theorem exec_stackBound (inside : s.pc.toNat ≤ 0xFFE) (k : Nat) (hk : k < 16) : t.stack[k].toNat ≤ 0x1000 := by
  by_cases isCall : ∃ a, i = .call a
  · obtain ⟨a, rfl⟩ := isCall
    by_cases free : s.nextSlot < 16
    · cases (execCall_of_free a free).symm.trans h
      rw [State.setPc_stack, State.pushAt_stack, Vector.getElem_set]
      split
      · bv_omega
      · exact inv.stackBound k hk
    · cases (execCall_of_full a free).symm.trans h
      exact inv.stackBound k hk
  · have kept : t.stack = s.stack := (exec_keepsUnnamed h).stack (not_exists.mp isCall)
    simpa only [kept] using inv.stackBound k hk

/-- The two kinds that store keep memory canonical, for each write does. -/
theorem exec_memWf : Memory.wf t.mem = true := by
  by_cases stores : storesMemory i
  · obtain ⟨x, rfl⟩ | ⟨x, rfl⟩ := stores
    · obtain ⟨-, rfl⟩ | ⟨a, rfl⟩ := withSpan_cases h
      · exact State.wf_writeMem (State.wf_writeMem (State.wf_writeMem inv.memWf _ _) _ _) _ _
      · exact inv.memWf
    · obtain ⟨-, rfl⟩ | ⟨a, rfl⟩ := withSpan_cases h
      · exact storeRange_wf inv.memWf (x.toNat + 1)
      · exact inv.memWf
  · rw [(exec_keepsUnnamed h).mem stores]
    exact inv.memWf

/-- LoadVxKey leaves `NONE_KEY` where it takes a key. -/
theorem exec_lastKeyLegal : t.lastKey.toNat < 16 ∨ t.lastKey = 255 := by
  by_cases isWait : ∃ x, i = .loadVxKey x
  · obtain ⟨x, rfl⟩ := isWait
    by_cases noKey : s.lastKey = 255
    · cases (execLoadVxKey_of_noKey x noKey).symm.trans h
      exact .inr noKey
    · cases (execLoadVxKey_of_key x noKey).symm.trans h
      exact .inr rfl
  · rw [(exec_keepsUnnamed h).lastKey (not_exists.mp isWait)]
    exact inv.lastKeyLegal

end

/-- A return address is one of the stack, or 0 where `sp` names no slot. -/
theorem pcAfter_ret_bound {s : State} (inv : s.Inv) : (pcAfter .ret s).toNat ≤ 0x10FE := by
  rw [pcAfter]
  by_cases slot : s.sp.toNat < 16
  · rw [Vector.getElem?_eq_getElem slot, Option.getD_some]
    exact (inv.stackBound _ slot).trans (by decide)
  · rw [Vector.getElem?_eq_none (Nat.le_of_not_lt slot)]
    decide

/-- The pc policy's table stays below 0x10FF (R23): its largest entry is JumpPlusV0's, 0xFFF + 0xFF. -/
theorem pcAfter_bound (i : Instr) {s : State} (inv : s.Inv) (inside : s.pc.toNat ≤ 0xFFE) :
    (pcAfter i s).toNat ≤ 0x10FE := by
  have advance : (s.pc + 2).toNat ≤ 0x10FE := by bv_omega
  have skip (c : Prop) [Decidable c] : (if c then s.pc + 4 else s.pc + 2).toNat ≤ 0x10FE := by
    split <;> bv_omega
  have jump (a : Addr) : (BitVec.ofNat 16 a.toNat).toNat ≤ 0x10FE := by
    rw [← zextAddr_eq_ofNat, zextAddr_toNat]
    omega
  cases i with
  | clearScreen | loadByte | addByte | loadReg | orReg | andReg | xorReg | addReg | subReg | shiftRight | subnReg
  | shiftLeft | loadIndex | random | drawSprite | loadVxDelay | loadDelayVx | loadSoundVx | addIndexVx | loadFontVx
  | storeBCD | storeRegisters | loadRegisters => exact advance
  | skipEqByte | skipNeByte | skipEqReg | skipNeReg | skipKeyPressed | skipKeyNotPressed => exact skip _
  | jump a | call a => exact jump a
  | jumpPlusV0 a =>
    have := (s.reg 0).isLt
    rw [pcAfter, ← addrPlus_eq_ofNat, addrPlus_toNat]
    omega
  | ret => exact pcAfter_ret_bound inv
  | loadVxKey =>
    rw [pcAfter]
    split
    · omega
    · exact advance

/-! ### An instruction step -/

/-- A fault after the boot phase keeps the invariant: its diagnostic holds the pc. -/
theorem State.Inv.fault {s t : State} {op : Option Word} (inv : s.Inv) (booted : s.boot = false)
    (fault : FaultOf s op t) : t.Inv := by
  obtain ⟨_, _, rfl⟩ := fault
  exact { inv with
    bootRuns := fun boot => nomatch booted.symm.trans boot
    faultAtPc := fun _ _ _ _ halted => by cases halted; rfl }

/-- An instruction that was fetched by a running machine keeps the invariant. -/
theorem exec_inv {i : Instr} {s t : State} (inv : s.Inv) (running : s.halt = .running) (booted : s.boot = false)
    (inside : s.pc.toNat ≤ 0xFFE) (h : exec i s = .next t) : t.Inv := by
  obtain same | fault := exec_halt_or_fault h
  · have stillRuns : t.halt = .running := same.trans running
    exact {
      spLegal := exec_spLegal inv h
      pcBound := exec_pc h stillRuns ▸ pcAfter_bound i inv inside
      stackBound := exec_stackBound inv h inside
      memWf := exec_memWf inv h
      lastKeyLegal := exec_lastKeyLegal inv h
      bootRuns := fun _ => stillRuns
      faultAtPc := fun _ _ _ _ halted => nomatch stillRuns.symm.trans halted }
  · exact inv.fault booted fault

/-- What was fetched stood inside memory. -/
theorem pc_of_fetch {s : State} {op : Word} (fetched : s.fetch = some op) : s.pc.toNat ≤ 0xFFE := by
  by_contra outside
  exact nomatch (fetch_of_outside (by omega)).symm.trans fetched

theorem stepCall_inv {s t : State} (inv : s.Inv) (h : stepCall s = .next t) : t.Inv := by
  have booted : State.Inv { s with boot := false } := { inv with bootRuns := nofun }
  obtain ⟨running, ⟨-, rfl⟩ | ⟨_, -, -, rfl⟩ | ⟨op, i, fetched, -, executed⟩⟩ := stepCall_cases h
  · exact booted.fault rfl ⟨_, _, rfl⟩
  · exact booted.fault rfl ⟨_, _, rfl⟩
  · exact exec_inv booted running rfl (pc_of_fetch fetched) executed

/-! ### The host's calls -/

/-- `reset()` keeps `last_key` and gives everything else that the invariant speaks of its reset value. -/
theorem resetCall_inv {s : State} (legal : s.lastKey.toNat < 16 ∨ s.lastKey = 255) : (resetCall s).Inv where
  spLegal := .inr rfl
  pcBound := (by decide : Config.programStart.toNat ≤ 0x10FE)
  stackBound k hk := by rw [resetCall_stack]; decide
  memWf := resetCall_memory_wf s
  lastKeyLegal := legal
  bootRuns _ := rfl
  faultAtPc := nofun

theorem tick_inv {s : State} (inv : s.Inv) : State.Inv { countSound (countDelay s) with boot := false } := by
  rw [countSound_eq, countDelay_eq]
  exact { inv with bootRuns := nofun }

theorem perform_inv {c : HostCall} {s t : State} (inv : s.Inv) (h : perform c s = .next t) : t.Inv := by
  obtain ⟨-, rfl⟩ | ⟨image, -, -, -, size, rfl⟩ | ⟨keys, -, stepped⟩ | ⟨-, -, rfl⟩ | ⟨key, -, allowed, rfl⟩ :=
    perform_cases h
  · exact resetCall_inv inv.lastKeyLegal
  · exact { inv with memWf := Memory.wf_ofImage size }
  · exact stepCall_inv (s := { s with keys := keys }) { inv with } stepped
  · exact tick_inv inv
  · exact { inv with lastKeyLegal := lastKeyAllowed_iff.mp allowed }

/-- Settles O48: at power-on `reset()` has nothing left to change, so the invariant is the one `reset()` establishes. -/
theorem invariantHoldsAtReset : Obligations.InvariantHoldsAtReset :=
  (resetCall_reset ▸ resetCall_inv (.inr rfl) : State.reset.Inv)

/-- Settles O49: a transaction is an instruction step or a host call, and each keeps the invariant. -/
theorem everyStepKeepsTheInvariant : Obligations.EveryStepKeepsTheInvariant := by
  intro s t inv h
  obtain ⟨-, stepped⟩ | ⟨c, rest, -, performed⟩ := step_cases h
  · exact stepCall_inv inv stepped
  · exact perform_inv (s := { s with pending := rest }) { inv with } performed

end Sys2Proof.Machine
end

section
/-! DrawSprite away from VF (spec/40_display.md R101). With neither coordinate in VF the pixels of the loop stand at fixed
positions, all different, since a sprite is narrower and lower than the screen. So every pixel is plotted at most once,
and each plot meets the pixel as it was before the instruction. -/

namespace Sys2Proof.Machine

/-! ### Plotting a list of pixels at different positions -/

/-- A pixel of a framebuffer, its position as column and row. -/
def pixelAt (fb : Screen) (q : Fin 64 × Fin 32) : Bool := fb[q.2.val][q.1.val]

/-- `Plot` at a position, over a framebuffer and a collision flag (spec/60_exceptions.md R221). -/
def plotAt (acc : Screen × Bool) (q : Fin 64 × Fin 32) (b : Bool) : Screen × Bool :=
  (acc.1.set q.2.val (acc.1[q.2.val].set q.1.val (pixelAt acc.1 q ^^ b)), acc.2 || (pixelAt acc.1 q && b))

/-- `Plot` XORs the pixel at its position; the framebuffer is the one `State.plot` leaves. -/
theorem pixelAt_plotAt (acc : Screen × Bool) (q r : Fin 64 × Fin 32) (b : Bool) :
    pixelAt (plotAt acc q b).1 r = if r = q then (pixelAt acc.1 r ^^ b) else pixelAt acc.1 r :=
  (State.plot_pixel { State.reset with fb := acc.1 } q.1 r.1 q.2 r.2 b).trans (if_congr Prod.ext_iff.symm rfl rfl)

section
variable {α : Type} (pos : α → Fin 64 × Fin 32) (bit : α → Bool)

/-- Some element of `l` sets its bit at position `q`. -/
def Covers (l : List α) (q : Fin 64 × Fin 32) : Prop := ∃ p ∈ l, pos p = q ∧ bit p = true

/-- Plotting a list of pixels, in order. -/
def plotAll (l : List α) (acc : Screen × Bool) : Screen × Bool := l.foldl (fun acc p => plotAt acc (pos p) (bit p)) acc

variable {pos bit}

theorem covers_cons {p : α} {l : List α} {q : Fin 64 × Fin 32} :
    Covers pos bit (p :: l) q ↔ (pos p = q ∧ bit p = true) ∨ Covers pos bit l q := List.exists_mem_cons_iff ..

theorem Covers.ne_of_notMem {p : α} {l : List α} {q : Fin 64 × Fin 32} (covers : Covers pos bit l q)
    (fresh : pos p ∉ l.map pos) : q ≠ pos p := by
  rintro rfl
  obtain ⟨p', mem, same, -⟩ := covers
  exact fresh (List.mem_map.mpr ⟨p', mem, same⟩)

/-- A position is XORed with whether the list covers it. -/
theorem pixelAt_plotAll {l : List α} (distinct : (l.map pos).Nodup) (acc : Screen × Bool) {q : Fin 64 × Fin 32}
    {b : Bool} (covered : b = true ↔ Covers pos bit l q) :
    pixelAt (plotAll pos bit l acc).1 q = (pixelAt acc.1 q ^^ b) := by
  induction l generalizing acc b with
  | nil => simp_all [plotAll, Covers]
  | cons p l ih =>
    obtain ⟨fresh, distinct⟩ := List.nodup_cons.mp distinct
    rw [covers_cons] at covered
    rw [plotAll, List.foldl_cons, ← plotAll]
    by_cases here : q = pos p
    · have later : ¬ Covers pos bit l q := fun covers => covers.ne_of_notMem fresh here
      have plotted : b = bit p := Bool.eq_iff_iff.mpr (by simp [covered, later, here.symm])
      rw [ih distinct _ (b := false) (by simpa using later), pixelAt_plotAt, if_pos here, Bool.xor_false, plotted]
    · rw [ih distinct _ (b := b) (by simp [covered, Ne.symm here]), pixelAt_plotAt, if_neg here]

/-- The flag is raised where a covered position was set before. -/
theorem flag_plotAll {l : List α} (distinct : (l.map pos).Nodup) (acc : Screen × Bool) :
    (plotAll pos bit l acc).2 = true ↔ acc.2 = true ∨ ∃ q, pixelAt acc.1 q = true ∧ Covers pos bit l q := by
  induction l generalizing acc with
  | nil => simp [plotAll, Covers]
  | cons p l ih =>
    obtain ⟨fresh, distinct⟩ := List.nodup_cons.mp distinct
    have untouched (q) : pixelAt (plotAt acc (pos p) (bit p)).1 q = true ∧ Covers pos bit l q ↔
        pixelAt acc.1 q = true ∧ Covers pos bit l q :=
      and_congr_left fun covers => by rw [pixelAt_plotAt, if_neg (covers.ne_of_notMem fresh)]
    rw [plotAll, List.foldl_cons, ← plotAll, ih distinct, exists_congr untouched]
    simp [covers_cons, and_or_left, exists_or, or_assoc, plotAt]

end

/-! ### The sprite's pixels -/

/-- The position of a sprite's pixel, given as row and column in the sprite. -/
def spritePos (x0 y0 : Byte) (p : Nat × Nat) : Fin 64 × Fin 32 := (wrapX x0 p.2, wrapY y0 p.1)

/-- The sprite's bit at a row and column. -/
def spriteBitAt (s : State) (p : Nat × Nat) : Bool := spriteBit (s.readMem (s.i.toNat + p.1)) p.2

/-- With neither coordinate in VF the loop plots at fixed positions. -/
theorem spriteLoop_eq_plotAll (ord : AliasOrder) {x y : Reg} (hx : x ≠ 15) (hy : y ≠ 15) (n : Nat) (s : State) :
    spriteLoop ord x y n s =
      plotAll (spritePos (s.reg x) (s.reg y)) (spriteBitAt s) (spriteOrder n) (s.fb, false) := by
  have step : spritePlot ord x y s = fun acc p => plotAt acc (spritePos (s.reg x) (s.reg y) p) (spriteBitAt s p) := by
    funext acc p
    simp only [spritePlot, spriteCoordinate, hx, hy, false_and, if_false]
    rfl
  rw [spriteLoop, step, plotAll]

theorem mem_spriteOrder {n : Nat} {p : Nat × Nat} : p ∈ spriteOrder n ↔ p.1 < n ∧ p.2 < 8 := by
  have product : spriteOrder n = List.range n ×ˢ List.range 8 := rfl
  rw [product, List.mem_product, List.mem_range, List.mem_range]

theorem spriteOrder_nodup (n : Nat) : (spriteOrder n).Nodup := List.nodup_range.product List.nodup_range

/-- The column of a position in the sprite is its distance from the corner. -/
theorem wrapX_eq_iff {x0 : Byte} {col : Nat} {px : Fin 64} (narrow : col < 64) :
    wrapX x0 col = px ↔ (px.val + 64 - x0.toNat % 64) % 64 = col := by
  simp only [wrapX, Fin.ext_iff]
  omega

theorem wrapY_eq_iff {y0 : Byte} {row : Nat} {py : Fin 32} (low : row < 32) :
    wrapY y0 row = py ↔ (py.val + 32 - y0.toNat % 32) % 32 = row := by
  simp only [wrapY, Fin.ext_iff]
  omega

/-- Different pixels of a sprite stand at different positions. -/
theorem spritePos_nodup (x0 y0 : Byte) {n : Nat} (low : n < 32) : ((spriteOrder n).map (spritePos x0 y0)).Nodup := by
  refine (spriteOrder_nodup n).map_on fun p hp p' hp' same => ?_
  rw [mem_spriteOrder] at hp hp'
  obtain ⟨sameX, sameY⟩ := Prod.mk.inj same
  have col := (wrapX_eq_iff (by omega)).mp sameX
  have row := (wrapY_eq_iff (by omega)).mp sameY
  have col' := (wrapX_eq_iff (x0 := x0) (col := p'.2) (by omega)).mp rfl
  have row' := (wrapY_eq_iff (y0 := y0) (row := p'.1) (by omega)).mp rfl
  exact Prod.ext (row.symm.trans row') (col.symm.trans col')

/-- The sprite, said by distances from its corner, covers what its pixels cover. -/
theorem spriteAt_iff_covers (s : State) (x0 y0 : Byte) {n : Nat} (low : n < 32) (px : Fin 64) (py : Fin 32) :
    spriteAt s x0 y0 n px py = true ↔ Covers (spritePos x0 y0) (spriteBitAt s) (spriteOrder n) (px, py) := by
  simp only [spriteAt, Bool.and_eq_true, decide_eq_true_eq]
  constructor
  · rintro ⟨⟨row, col⟩, bit⟩
    exact ⟨(_, _), mem_spriteOrder.mpr ⟨row, col⟩,
      Prod.ext ((wrapX_eq_iff (by omega)).mpr rfl) ((wrapY_eq_iff (by omega)).mpr rfl), bit⟩
  · rintro ⟨p, mem, position, bit⟩
    obtain ⟨hrow, hcol⟩ := mem_spriteOrder.mp mem
    obtain ⟨atX, atY⟩ := Prod.mk.inj position
    rw [(wrapX_eq_iff (by omega)).mp atX, (wrapY_eq_iff (by omega)).mp atY]
    exact ⟨⟨hrow, hcol⟩, bit⟩

/-- Settles O13: the instruction runs the pixel loop, whose positions are fixed and different; it XORs what the sprite
covers, and its flag says whether a covered pixel was set. -/
theorem drawSpriteXorsTheSprite : Obligations.DrawSpriteXorsTheSprite := by
  intro x y n s hx hy fits
  have low : n.toNat < 32 := by omega
  have distinct := spritePos_nodup (s.reg x) (s.reg y) low
  have answer := (drawSpriteRunsThePixelLoop.2 x y n s).1 fits
  rw [spriteLoop_eq_plotAll _ hx hy] at answer
  refine ⟨_, answer, rfl, rfl, fun px py => ?pixel, ?flag, fun r other => ?others⟩
  case pixel => exact pixelAt_plotAll distinct (s.fb, false) (spriteAt_iff_covers s _ _ low px py)
  case flag =>
    refine ((s.setReg_reg 15 _ 15).trans (if_pos rfl)).trans (if_congr ?_ rfl rfl)
    rw [flag_plotAll distinct]
    simp only [Bool.false_eq_true, false_or, Prod.exists, Bool.and_eq_true, spriteAt_iff_covers s _ _ low]
    rfl
  case others => exact (s.setReg_reg 15 _ r).trans (if_neg other)

end Sys2Proof.Machine
end
